-- ==== Sys2Proof/Word.lean ====
section
/-! DEFINITION. The word types of the controller, one abbreviation per width the spec names (R9, R80). -/

namespace Sys2Proof

/-- A byte: a cell of the EEPROM, a value on the data lines, a byte of an image (F-DATA, R90). -/
abbrev Byte := BitVec 8

/-- The 16-bit latch word that the shift register and the storage register hold (F-LATCH, R85). -/
abbrev LatchWord := BitVec 16

/-- A host command word (F-CMD, R81). -/
abbrev CommandWord := BitVec 32

/-- The 16-bit address operand of READ and WRITE (R84), before the range check. -/
abbrev Address := BitVec 16

/-- An address of the EEPROM's byte space. The latch carries at most the 15 bits Q[14:0], of which the low
ADDR_BITS reach the chip (R8, R24, R51); the others are 0. -/
abbrev CellAddress := BitVec 15

/-- A ControlWord: one bit per control line of the consumer CPU (F-CW, R88). -/
abbrev ControlWord := BitVec 16

/-- An opcode of the consumer CPU, the OPC field of F-UCODE (R87, R89). -/
abbrev Opcode := BitVec 4

/-- A micro-step, the STEP field of F-UCODE (R87). -/
abbrev MicroStep := BitVec 3

/-- A flagState index of the microcode image, the FLAGS field of F-UCODE (R87, R178). -/
abbrev FlagState := BitVec 2

end Sys2Proof
end

