-- ==== Sys2Proof/Config.lean ====
section
/-! DEFINITION. What an implementation fixes (R7) and the values the spec leaves free.

Every machine definition takes a `Params`, so that the rules can be checked at any configuration; the
machine itself runs at `Config.hardware`, whose open fields are constants without a body. -/

namespace Sys2Proof

/-! ## Types of the parameters -/

/-- The control lines of the consumer CPU, in the source's order (R88). -/
inductive ControlLine where
  | HLT | MI | RI | RO | IO | II | AI | AO | EO | SU | BI | OI | CE | CO | JM | FI
deriving DecidableEq, Repr

/-- The two variants of the digit table, of which one is active (R156). -/
inductive DigitVariant where
  | commonAnode
  | commonCathode
deriving DecidableEq, Repr, Inhabited

/-- The open part of the base microprogram (R177, R180): the active words each opcode offers after the
fetch steps, the number of NOP and the reserved opcodes. `baseTable` in
Machine/Microcode.lean makes an admitted BASE_TABLE of every value of this type. -/
structure Microprogram where
  activeSteps : Opcode → List ControlWord
  nopOpcode : Opcode
  reservedOpcodes : List Opcode

/-- All that the spec leaves to the implementation or to the environment. The first eight fields are the
parameters of R7, within the bounds of R8 by their types: ROM_SIZE is a power of two up to 32768, and
CW_BIT gives each of the 16 control lines one of the 16 bits. The last four are draws: `initialByte` the byte a cell holds before a run's
first write to it (R226), `lineBit` the level of a line nothing defines (R54), `cycleEvents` how many
bus events a write cycle outlasts, `none` for a chip that never finishes (R55), and `cellByte` the
content of a cell that an overlapped write or a WriteTimeout leaves unspecified (R56, R147). -/
structure Params where
  addrBits : Fin 16
  cwBit : ControlLine ≃ Fin 16
  pollMaxPred : Option Nat
  tWp : Nat
  tPoll : Nat
  digits : DigitVariant → BitVec 4 → Byte
  variant : DigitVariant
  micro : Microprogram
  initialByte : Nat → Byte
  lineBit : Nat → Bool
  cycleEvents : Nat → Option Nat
  cellByte : Nat → Byte

/-- ROM_SIZE, the number of byte cells of the EEPROM: `ADDR_BITS = log2 ROM_SIZE` (R7, R8). -/
def Params.romSize (p : Params) : Nat := 2 ^ p.addrBits.val

/-- POLL_MAX: `none` is the original unbounded loop; a bound is at least 1 (R7, R8), so the field holds
the number before it. -/
def Params.pollMax (p : Params) : Option Nat := p.pollMaxPred.map (· + 1)

/-! ## The values the spec gives this hardware -/

/-- ADDR_BITS of this hardware: 11, so that ROM_SIZE is 2048 (R7). -/
def Config.addrBits : Fin 16 := 11

/-- CW_BIT of this hardware: bit 15 down to bit 0 in the listed order (R88, D16). -/
def Config.cwBit : ControlLine ≃ Fin 16 where
  toFun
    | .HLT => 15 | .MI => 14 | .RI => 13 | .RO => 12
    | .IO => 11 | .II => 10 | .AI => 9 | .AO => 8
    | .EO => 7 | .SU => 6 | .BI => 5 | .OI => 4
    | .CE => 3 | .CO => 2 | .JM => 1 | .FI => 0
  invFun n :=
    [.FI, .JM, .CO, .CE, .OI, .BI, .SU, .EO, .AO, .AI, .II, .IO, .RO, .RI, .MI, .HLT][n]
  left_inv l := by cases l <;> rfl
  right_inv n := by revert n; decide

/-! ## The hardware's own open values: constants without a body -/

/-- The number before POLL_MAX, or none for the unbounded loop (R7, R8). -/
opaque Config.pollMaxPred : Option Nat
/-- T_WP, the lower bound of the write-enable pulse's width (R7, R234). -/
opaque Config.tWp : Nat
/-- T_POLL, the lower bound of the wait between two polling samples (R7, R235). -/
opaque Config.tPoll : Nat
/-- DIGITS, both variants (R155, R156). -/
opaque Config.digits : DigitVariant → BitVec 4 → Byte
/-- DIGIT_VARIANT (R156). -/
opaque Config.variant : DigitVariant
/-- The active words of BASE_TABLE's rows (R177, R180). -/
opaque Config.activeSteps : Opcode → List ControlWord
/-- NOP_OPCODE (R89). -/
opaque Config.nopOpcode : Opcode
/-- RESERVED_OPCODES, before JC and JZ are taken out of it (R7). -/
opaque Config.reservedOpcodes : List Opcode
/-- Free value: what each cell of the EEPROM holds at the start of a run (R226). -/
opaque Config.initialByte : Nat → Byte
/-- Free value: the level of a sampled line that nothing defines, for each draw (R54). -/
opaque Config.lineBit : Nat → Bool
/-- Free value: how many bus events each write cycle outlasts (R55). -/
opaque Config.cycleEvents : Nat → Option Nat
/-- Free value: what an overlapped write or a WriteTimeout leaves in a cell, for each draw (R56, R147). -/
opaque Config.cellByte : Nat → Byte

/-- The configuration of this hardware. JC (7) and JZ (8) are no reserved opcodes (R7). -/
def Config.hardware : Params where
  addrBits := Config.addrBits
  cwBit := Config.cwBit
  pollMaxPred := Config.pollMaxPred
  tWp := Config.tWp
  tPoll := Config.tPoll
  digits := Config.digits
  variant := Config.variant
  micro :=
    { activeSteps := Config.activeSteps
      nopOpcode := Config.nopOpcode
      reservedOpcodes := Config.reservedOpcodes.filter fun o => decide (o ≠ 7#4 ∧ o ≠ 8#4) }
  initialByte := Config.initialByte
  lineBit := Config.lineBit
  cycleEvents := Config.cycleEvents
  cellByte := Config.cellByte

end Sys2Proof
end

