-- ==== Sys2Proof/Syntax.lean ====
section
/-! DEFINITION. The instructions: one constructor per row of spec/opcode_table.json (R82, R83).

The four host commands carry the operands of their F-CMD word (R81, R84). SET_ADDRESS is the internal
operation of R110 with its own F-LATCH word (R85). -/

namespace Sys2Proof

/-- One constructor per row of the opcode table. -/
inductive Instr where
  /-- READ, F-CMD with OP = 1 (R82, R125): the 16-bit address operand, range-checked when it runs. -/
  | read (a : Address)
  /-- WRITE, F-CMD with OP = 2 (R82, R128): the address operand and the byte to store. -/
  | write (a : Address) (v : Byte)
  /-- GEN_DISPLAY, the one F-CMD word with OP = 3 (R82, R160). -/
  | genDisplay
  /-- GEN_MICROCODE, the one F-CMD word with OP = 4 (R82, R184). -/
  | genMicrocode
  /-- SET_ADDRESS, F-LATCH (R85, R110): the address and whether output enable is asserted. -/
  | setAddress (a : Address) (oe : Bool)
deriving DecidableEq, Repr

end Sys2Proof
end

