-- ==== Sys2Proof/WellFormed.lean ====
section
/-! DEFINITION. Which instructions have an encoding: every operand value of the four host commands has
one (R94); SET_ADDRESS takes only addresses below ROM_SIZE (R110, R233). -/

namespace Sys2Proof

/-- The check on an instruction's operands. The range of READ's and WRITE's address is no part of it:
an out-of-range address has an encoding and is rejected when the command runs (R84, R205). -/
def Instr.wellFormed (p : Params) : Instr → Bool
  | .read _ => true
  | .write _ _ => true
  | .genDisplay => true
  | .genMicrocode => true
  | .setAddress a _ => decide (a.toNat < p.romSize)

/-- The instruction has an encoding. -/
abbrev Instr.WellFormed (p : Params) (i : Instr) : Prop := i.wellFormed p = true

end Sys2Proof
end

