-- ==== Sys2Proof/Decode.lean ====
section
/-! DEFINITION. The decoder of R93, total on every word and rejecting by name, and the encoder of R82,
R85 and R94. A word is either a host command (F-CMD, 32 bits) or a latch word (F-LATCH, 16 bits). -/

namespace Sys2Proof

/-- A word in the format it arrives in (R80). -/
inductive Wire where
  /-- A host command word. -/
  | command (w : CommandWord)
  /-- A latch word. -/
  | latch (w : LatchWord)
deriving DecidableEq, Repr

/-- Why a word stands for no instruction (R91). -/
inductive DecodeError where
  /-- F-CMD bits 27:24 are not 0 (R93). -/
  | rsvdNotZero
  /-- F-CMD OP is 0 or 5 to 15 (R82). -/
  | reservedOp
  /-- An ADDR field that must be 0 is not (R82). -/
  | addrNotZero
  /-- A VALUE field that must be 0 is not (R82). -/
  | valueNotZero
  /-- F-LATCH bits 14:ADDR_BITS are not 0 (R85, R91 (d)). -/
  | latchRsvdNotZero
deriving DecidableEq, Repr

/-! ## Fields of F-CMD (R81) -/

def opField (w : CommandWord) : BitVec 4 := w.extractLsb' 28 4
def rsvdField (w : CommandWord) : BitVec 4 := w.extractLsb' 24 4
def addrField (w : CommandWord) : Address := w.extractLsb' 8 16
def valueField (w : CommandWord) : Byte := w.extractLsb' 0 8

/-! ## The decoder -/

/-- The decoder of a host command word (R93), its checks in the order R93 gives them. -/
def decodeCommand (w : CommandWord) : Except DecodeError Instr :=
  if rsvdField w ≠ 0#4 then .error .rsvdNotZero
  else if opField w = 1#4 then
    if valueField w ≠ 0#8 then .error .valueNotZero else .ok (.read (addrField w))
  else if opField w = 2#4 then .ok (.write (addrField w) (valueField w))
  else if opField w = 3#4 then
    if addrField w ≠ 0#16 then .error .addrNotZero
    else if valueField w ≠ 0#8 then .error .valueNotZero else .ok .genDisplay
  else if opField w = 4#4 then
    if addrField w ≠ 0#16 then .error .addrNotZero
    else if valueField w ≠ 0#8 then .error .valueNotZero else .ok .genMicrocode
  else .error .reservedOp

/-- The decoder of a latch word: bit 15 is OE_N, bits 14:ADDR_BITS must be 0, the rest is the address
(R85, R111). -/
def decodeLatch (p : Params) (w : LatchWord) : Except DecodeError Instr :=
  if w.extractLsb' 0 15 >>> p.addrBits.val ≠ 0#15 then .error .latchRsvdNotZero
  else .ok (.setAddress ((w.extractLsb' 0 15).setWidth 16) (!w.getLsbD 15))

/-- The decoder, total on every word of either format. -/
def decode (p : Params) : Wire → Except DecodeError Instr
  | .command w => decodeCommand w
  | .latch w => decodeLatch p w

/-! ## The encoder -/

/-- An F-CMD word from its four fields (R81). -/
def commandWord (op : BitVec 4) (a : Address) (v : Byte) : CommandWord :=
  op ++ 0#4 ++ a ++ v

/-- The latch word of SET_ADDRESS(a, oe): high byte and low byte as R85 gives them, for every address. -/
def latchWord (a : Address) (oe : Bool) : LatchWord :=
  let high : Byte := ((a >>> 8).setWidth 8) ||| (if oe then 0x00#8 else 0x80#8)
  let low : Byte := a.setWidth 8
  high ++ low

/-- The word of an instruction (R82, R85, R94). -/
def encode : Instr → Wire
  | .read a => .command (commandWord 1#4 a 0#8)
  | .write a v => .command (commandWord 2#4 a v)
  | .genDisplay => .command (commandWord 3#4 0#16 0#8)
  | .genMicrocode => .command (commandWord 4#4 0#16 0#8)
  | .setAddress a oe => .latch (latchWord a oe)

/-! ## The opcode table's words -/

/-- The word that the low `nbits` bits of `w` are, in the format of that width: F-CMD words are 32 bits
wide and F-LATCH words 16 (R80); no other width is a format. -/
def wireOfTableWord (nbits w : Nat) : Option Wire :=
  if nbits = 32 then some (.command (BitVec.ofNat 32 w))
  else if nbits = 16 then some (.latch (BitVec.ofNat 16 w))
  else none

/-- The instruction the hardware's decoder reads from a word of the opcode table. -/
def decodeTableWord (nbits w : Nat) : Option Instr :=
  match wireOfTableWord nbits w with
  | none => none
  | some x =>
    match decode Config.hardware x with
    | .ok i => some i
    | .error _ => none

end Sys2Proof
end

