-- ==== Sys2Proof/Machine/State.lean ====
section
/-! DEFINITION. The state of the machine as plain data, the reasons a step can stop, and the state after
reset. The controller's state is R20's tuple, the EEPROM's is R35's; the last ten fields are the
model's own and hold what the spec implies: the chip's draws, the command in flight, what the host has
yet to issue and what it has been answered. -/

namespace Sys2Proof.Machine

/-- PHASE, the controller's sequencing state (R30). -/
inductive Phase where
  | idle
  | rdDir | rdLatch | rdSample
  | wrLatch | wrDir | wrDrive | wrPulse
  | wcDir | wcLatch | wcSample | wcWait
deriving DecidableEq, Repr

/-- The transaction-level bus events (R33). -/
inductive Event where
  /-- LATCH(w): one complete SET_ADDRESS. -/
  | latch (w : LatchWord)
  /-- DIR_IN: the data lines become inputs. -/
  | dirIn
  /-- DIR_OUT: the data lines become outputs. -/
  | dirOut
  /-- DRIVE(v): the output latch takes v. -/
  | drive (v : Byte)
  /-- WE_LOW: the write-enable line goes to 0. -/
  | weLow
  /-- WE_HIGH: the write-enable line goes to 1. -/
  | weHigh
  /-- WAIT_WP: an interval of at least T_WP. -/
  | waitWp
  /-- WAIT_POLL: an interval of at least T_POLL. -/
  | waitPoll
  /-- SAMPLE(i) -> b: data line i is read with level b. -/
  | sample (line : Nat) (b : Bool)
deriving DecidableEq, Repr

/-- The error conditions of R202. -/
inductive ErrCode where
  | invalidAddress
  | writeTimeout
  | busFault
  | illegalCommand
deriving DecidableEq, Repr

/-- The info an error records (R202). -/
inductive ErrInfo where
  /-- InvalidAddress records the address (R205). -/
  | address (a : Address)
  /-- WriteTimeout records the address, the value and POLLS (R204). -/
  | timeout (a : Address) (v : Byte) (polls : Nat)
  /-- IllegalCommand records the command word (R206). -/
  | word (w : CommandWord)
deriving DecidableEq, Repr

/-- An entry of ERRLOG: (code, command, info), the command as its word (R31, R201). -/
structure ErrEntry where
  code : ErrCode
  command : CommandWord
  info : ErrInfo
deriving DecidableEq, Repr

/-- What a command returns to the host (R125, R128, R160, R184, R201). -/
inductive Result where
  /-- READ's Ok(data). -/
  | okByte (b : Byte)
  /-- WRITE's Ok(()). -/
  | okUnit
  /-- A generator's Ok(img). -/
  | okImage (img : List Byte)
  /-- Err(E). -/
  | err (code : ErrCode) (info : ErrInfo)
deriving DecidableEq, Repr

/-- The contents of MEM that differ from what the cells held at the start of the run: a list of
(address, byte) pairs in the canonical form of `Memory.wf` (Machine/Ops.lean). -/
abbrev Memory := List Host.Cell

/-- The machine: the controller (R20), the EEPROM (R35), and the model's own fields. -/
structure State where
  /-- SR, the external shift register (R22). -/
  sr : LatchWord
  /-- Q, the storage register: Q[15] is OE_N, Q[ADDR_BITS-1:0] the EEPROM address (R23, R24). -/
  q : LatchWord
  /-- DIR, the direction of the data lines: 1 is an output (R25). -/
  dir : Byte
  /-- DOUT, the output latch of the data lines (R26). -/
  dout : Byte
  /-- WE_N, the write-enable line, active low (R27). -/
  weN : Bool
  /-- SER, the serial-address-in line (R28). -/
  ser : Bool
  /-- SRCLK, the shift clock (R28). -/
  srclk : Bool
  /-- RCLK, the latch clock (R28). -/
  rclk : Bool
  /-- PHASE (R30). -/
  phase : Phase
  /-- POLLS, the samples of the current WriteCommit (R29). -/
  polls : Nat
  /-- ERRLOG, append-only (R31). -/
  errlog : List ErrEntry
  /-- MEM, the EEPROM's stored bytes (R35). -/
  mem : Memory
  /-- BUSY: an internal write cycle is in progress (R35). -/
  busy : Bool
  /-- PEND_ADDR, the address of the write in progress (R35). -/
  pendAddr : CellAddress
  /-- PEND_VAL, the value of the write in progress (R35). -/
  pendVal : Byte
  /-- The model's own: how many bus events the write cycle in progress still outlasts, `none` for a
  cycle that never finishes (the draw of R55). -/
  cycleLeft : Option Nat
  /-- The model's own: the write in progress was started while the chip was busy (R56). -/
  overlapped : Bool
  /-- The model's own: the chip is disconnected or faulty, so that every level it presents is a draw (R126,
  I-1). No step changes it; the environment does. -/
  faulty : Bool
  /-- The model's own: how many draws have been taken; it indexes the free values of Config. -/
  draws : Nat
  /-- The model's own: the address operand of the READ or WRITE in flight (R10, R30). -/
  opAddr : Address
  /-- The model's own: the value operand of the WRITE in flight (R10, R30). -/
  opVal : Byte
  /-- The model's own: the command words the host has yet to issue, the next one first (R13, R220). -/
  pending : List CommandWord
  /-- The model's own: a latch word given to the AddressLatch on its own, outside any command (R83). -/
  latchPort : Option LatchWord
  /-- The model's own: the bus events of the run so far, the traces of its commands one after the
  other (R33). -/
  trace : List Event
  /-- The model's own: the results the host has received, oldest first (R13, R202). -/
  results : List Result
deriving DecidableEq, Repr

/-- The reasons the machine stops with a fault. An error of a command is none of them: it is the
command's result (R200). -/
inductive Fault where
  /-- BusFault. Nobody raises it: the spec reserves it and says that the block never does (R207). Safe. -/
  | busFault
deriving DecidableEq, Repr

/-- The reasons the machine refuses to step. -/
inductive Refusal where
  /-- An instruction that has no meaning yet, raised by an arm of `exec`. Safe: nothing is claimed of it. -/
  | notModelled (mnemonic : String)
  /-- A command offered while PHASE is not IDLE, raised by the four host commands: the spec gives it no
  step and calls the treatment 'refuse' (R220, I-16). Safe. -/
  | commandInFlight
  /-- A latch word with a non-zero reserved bit given to the AddressLatch on its own, raised by `step`:
  the block never produces one (R91 (d), R118, R233). Safe. -/
  | latchRsvdNotZero
deriving DecidableEq, Repr

/-- The machine after boot (R38, R227): DIR, WE_N, SER, SRCLK, RCLK, PHASE, ERRLOG and BUSY as the spec
states them. DESIGN CHOICE (log entry 6, unsafe): SR, Q, DOUT, POLLS, PEND_ADDR and PEND_VAL, which the
spec leaves unspecified, are 0. DESIGN CHOICE (log entry 7): the model's own fields are 0 or empty. -/
def State.reset : State where
  sr := 0#16
  q := 0#16
  dir := 0x00#8
  dout := 0#8
  weN := true
  ser := false
  srclk := false
  rclk := false
  phase := .idle
  polls := 0
  errlog := []
  mem := []
  busy := false
  pendAddr := 0#15
  pendVal := 0#8
  cycleLeft := none
  overlapped := false
  faulty := false
  draws := 0
  opAddr := 0#16
  opVal := 0#8
  pending := []
  latchPort := none
  trace := []
  results := []

end Sys2Proof.Machine
end

