-- ==== Sys2Proof/Machine/Operands.lean ====
section
/-! DEFINITION. The operand forms: the range check of an address, the fields the EEPROM sees of the
storage register, single data lines, and the fields of the two image addresses. -/

namespace Sys2Proof.Machine

/-! ## Addresses (R84, R23, R24) -/

/-- The range check of READ and WRITE: `a < ROM_SIZE` (R205). -/
abbrev inRange (p : Params) (a : Address) : Prop := a.toNat < p.romSize

/-- The address the EEPROM sees: Q[ADDR_BITS-1:0] (R24). -/
def chipAddress (p : Params) (q : LatchWord) : CellAddress := BitVec.ofNat 15 (q.toNat % p.romSize)

/-- OE_N, the EEPROM's output-enable input: Q[15], active low (R24). -/
def outputEnableN (q : LatchWord) : Bool := q.getLsbD 15

/-! ## Data lines (R25, R26, R90) -/

/-- A bit as a word of any width. -/
def bitWord (w : Nat) (b : Bool) : BitVec w := (BitVec.ofBool b).setWidth w

/-- The byte with bit i set to b. -/
def setLine (d : Byte) (i : Nat) (b : Bool) : Byte :=
  if b then d ||| (1#8 <<< i) else d &&& ~~~(1#8 <<< i)

/-- The order in which WRITE drives the lines: D0 first, upward (R129). -/
def linesUp : List Nat := [0, 1, 2, 3, 4, 5, 6, 7]

/-- The order in which READ samples the lines: D7 first, downward (R125). -/
def linesDown : List Nat := [7, 6, 5, 4, 3, 2, 1, 0]

/-- The output latch after the eight drives of WRITE: `DOUT[i] <- v[i]` for i = 0 to 7 (R128). -/
def driveLines (dout v : Byte) : Byte :=
  linesUp.foldl (fun d i => setLine d i (v.getLsbD i)) dout

/-- The order in which a latch word's bits are shifted: bit 15 first (R112). -/
def bitsDown : List Nat := [15, 14, 13, 12, 11, 10, 9, 8, 7, 6, 5, 4, 3, 2, 1, 0]

/-! ## Fields of a display-image address (F-DISP, R86) -/

/-- REGION: false is the unsigned region, true the signed region. -/
def dispRegion (a : BitVec 11) : Bool := a.getLsbD 10
/-- POS: units, tens, hundreds, and thousands or sign. -/
def dispPos (a : BitVec 11) : BitVec 2 := a.extractLsb' 8 2
/-- B: the base value byte. -/
def dispByte (a : BitVec 11) : Byte := a.extractLsb' 0 8

/-! ## Fields of a microcode-image address (F-UCODE, R87) -/

/-- FLAGS: the flagState index. -/
def ucodeFlags (a : BitVec 10) : FlagState := a.extractLsb' 8 2
/-- BSEL: false is the low byte, true the high byte of the ControlWord. -/
def ucodeByteSelect (a : BitVec 10) : Bool := a.getLsbD 7
/-- OPC: the consumer CPU's opcode. -/
def ucodeOpcode (a : BitVec 10) : Opcode := a.extractLsb' 3 4
/-- STEP: the micro-step. -/
def ucodeStep (a : BitVec 10) : MicroStep := a.extractLsb' 0 3

/-- The image address of a flagState, byteSelect, opcode and step:
`FLAGS·256 + BSEL·128 + OPC·8 + STEP` (R87). -/
def ucodeAddress (f : FlagState) (bs : Bool) (o : Opcode) (s : MicroStep) : BitVec 10 :=
  f ++ BitVec.ofBool bs ++ o ++ s

end Sys2Proof.Machine
end

