-- ==== Sys2Proof/Machine/Ops.lean ====
section
/-! DEFINITION. The named operations over memory, the chip and the bus; raising an error and returning a
result, each one shared operation (R201, R202); and boot (R227).

Every operation that a bus event stands for first lets the chip's write cycle advance (`chipTick`):
the cycle finishes at a moment the environment chooses, between two bus events (R55). -/

namespace Sys2Proof.Machine

/-! ## Memory: MEM of R35, a sorted list of the cells that differ from the start of the run -/

/-- `MEM[a]`. A cell the run has not changed holds `init a`, a draw (R226, log entry 5). -/
def Memory.read (init : Nat → Byte) : Memory → Nat → Byte
  | [], a => init a
  | (b, v) :: m, a => if a = b then v else if a < b then init a else Memory.read init m a

/-- Lists cell a as v, or leaves it out where v is what an unlisted cell reads as. -/
def Memory.put (init : Nat → Byte) (a : Nat) (v : Byte) (m : Memory) : Memory :=
  if v = init a then m else (a, v) :: m

/-- `MEM[a] <- v`, keeping the canonical form. -/
def Memory.write (init : Nat → Byte) : Memory → Nat → Byte → Memory
  | [], a, v => Memory.put init a v []
  | (b, u) :: m, a, v =>
    if a < b then Memory.put init a v ((b, u) :: m)
    else if a = b then Memory.put init a v m
    else (b, u) :: Memory.write init m a v

/-- The canonical form: addresses strictly rising and below ROM_SIZE, and no entry equal to what an
unlisted address reads as. -/
abbrev Memory.wf (p : Params) (m : Memory) : Prop :=
  m.Pairwise (fun x y => x.1 < y.1) ∧ ∀ x ∈ m, x.1 < p.romSize ∧ x.2 ≠ p.initialByte x.1

/-- The byte of the EEPROM at an address of its space. -/
def State.cell (p : Params) (s : State) (a : CellAddress) : Byte :=
  Memory.read p.initialByte s.mem a.toNat

/-! ## The EEPROM environment (R52 to R56) -/

/-- The internal write cycle finishes: `MEM[PEND_ADDR] <- PEND_VAL; BUSY <- 0` (R55). The cell of a write
that was started while the chip was busy keeps the unspecified content it got then (R56, log entry 12). -/
def finishCycle (p : Params) (s : State) : State :=
  { s with
    mem := if s.overlapped then s.mem
      else Memory.write p.initialByte s.mem s.pendAddr.toNat s.pendVal
    busy := false
    cycleLeft := none
    overlapped := false }

/-- The chip between two bus events: a write cycle in progress finishes when its drawn time has come
(R55). -/
def chipTick (p : Params) (s : State) : State :=
  if s.busy then
    match s.cycleLeft with
    | none => s
    | some 0 => finishCycle p s
    | some (n + 1) => { s with cycleLeft := some n }
  else s

/-- A cell's content becomes unspecified: a draw, fresh each time (R56, R147). -/
def drawCell (p : Params) (a : CellAddress) (s : State) : State :=
  { s with
    mem := Memory.write p.initialByte s.mem a.toNat (p.cellByte s.draws)
    draws := s.draws + 1 }

/-- After a WriteTimeout the cell whose write is still in progress is unspecified until the chip finishes
(R59 (d), R147, log entry 25); on a chip that has finished nothing is open. -/
def unsettle (p : Params) (s : State) : State :=
  if s.busy then drawCell p s.pendAddr s else s

/-- The chip starts a write cycle at the end of a write-enable pulse, taking the address from Q and the
value from the data lines (R53). If it was still busy, both the pending cell and the new cell become
draws, and so does the new cycle's completion (R56). DESIGN CHOICE (log entry 12): the moment at which
BUSY counts is WE_HIGH, where R53 has the chip take the write; a cycle that ends earlier in the pulse
leaves a clean write. -/
def startCycle (p : Params) (s : State) : State :=
  if s.busy then
    let t := drawCell p (chipAddress p s.q) (drawCell p s.pendAddr s)
    { t with
      pendAddr := chipAddress p s.q
      pendVal := s.dout
      cycleLeft := p.cycleEvents t.draws
      overlapped := true
      draws := t.draws + 1 }
  else
    { s with
      busy := true
      pendAddr := chipAddress p s.q
      pendVal := s.dout
      cycleLeft := p.cycleEvents s.draws
      overlapped := false
      draws := s.draws + 1 }

/-- A draw: any level, fresh each time (R54). -/
def drawBit (p : Params) (s : State) : Bool × State :=
  (p.lineBit s.draws, { s with draws := s.draws + 1 })

/-- The level of data line i, the cases in the order R54 tries them. A disconnected or faulty chip presents
a draw on every line (R126, I-1, log entry 26). While an overlapped write is in progress the level of D7
is a draw too (R149). -/
def lineLevel (p : Params) (i : Nat) (s : State) : Bool × State :=
  if s.dir.getLsbD i then drawBit p s
  else if outputEnableN s.q then drawBit p s
  else if s.faulty then drawBit p s
  else if s.busy ∧ ¬ s.overlapped ∧ chipAddress p s.q = s.pendAddr ∧ i = 7 then
    (!s.pendVal.getLsbD 7, s)
  else if s.busy then drawBit p s
  else ((s.cell p (chipAddress p s.q)).getLsbD i, s)

/-! ## Bus events (R33) -/

/-- `emit(e)`: appends e to the trace (R10). -/
def emit (e : Event) (s : State) : State := { s with trace := s.trace ++ [e] }

/-- DIR_IN: `DIR <- 0x00`. -/
def dirIn (p : Params) (s : State) : State := emit .dirIn { chipTick p s with dir := 0x00#8 }

/-- DIR_OUT: `DIR <- 0xFF`. -/
def dirOut (p : Params) (s : State) : State := emit .dirOut { chipTick p s with dir := 0xFF#8 }

/-- DRIVE(v): `DOUT[i] <- v[i]`, the lines in rising order (R128, R129). -/
def drive (p : Params) (v : Byte) (s : State) : State :=
  emit (.drive v) { chipTick p s with dout := driveLines (chipTick p s).dout v }

/-- WE_LOW: `WE_N <- 0` (R130). -/
def weLow (p : Params) (s : State) : State := emit .weLow { chipTick p s with weN := false }

/-- WE_HIGH: `WE_N <- 1`, and the chip starts its write cycle (R53, R130). Whether BUSY = 1 makes the write an
overlapped one is asked here only, after the tick (log entry 12). -/
def weHigh (p : Params) (s : State) : State :=
  emit .weHigh (startCycle p { chipTick p s with weN := true })

/-- WAIT_WP: an interval of at least T_WP (R236). -/
def waitWp (p : Params) (s : State) : State := emit .waitWp (chipTick p s)

/-- WAIT_POLL: an interval of at least T_POLL (R236). -/
def waitPoll (p : Params) (s : State) : State := emit .waitPoll (chipTick p s)

/-- SAMPLE(i): the level of data line i, and the state after it (R34). -/
def sample (p : Params) (i : Nat) (s : State) : Bool × State :=
  let r := lineLevel p i (chipTick p s)
  (r.1, emit (.sample i r.1) r.2)

/-- READ's eight samples: `data <- ((data << 1) | sample(i)) & 0xFF` for i = 7 down to 0 (R125). -/
def sampleByte (p : Params) (s : State) : Byte × State :=
  linesDown.foldl
    (fun acc i =>
      let r := sample p i acc.2
      ((acc.1 <<< 1) ||| bitWord 8 r.1, r.2))
    (0#8, s)

/-- A lower bound of the interval an event takes: T_WP and T_POLL for the two waits, nothing for any
other event (R234 to R236). -/
def Event.atLeast (p : Params) : Event → Nat
  | .waitWp => p.tWp
  | .waitPoll => p.tPoll
  | .latch _ | .dirIn | .dirOut | .drive _ | .weLow | .weHigh | .sample _ _ => 0

/-! ## Ending a command (R201, R202) -/

/-- A command returns Ok: `PHASE <- IDLE`, and the host receives the result. -/
def answer (r : Result) (s : State) : State :=
  { s with phase := .idle, results := s.results ++ [r] }

/-- `raise E(info)`: `PHASE <- IDLE`, `(code, command, info)` is appended to ERRLOG, and the host receives
Err(E). Events emitted before it stand and every register keeps its value (R201). -/
def raise (code : ErrCode) (command : CommandWord) (info : ErrInfo) (s : State) : State :=
  { s with
    phase := .idle
    errlog := s.errlog ++ [{ code := code, command := command, info := info }]
    results := s.results ++ [.err code info] }

/-- The status codes of R202; 0 is Ok. -/
def ErrCode.number : ErrCode → BitVec 4
  | .invalidAddress => 1#4
  | .writeTimeout => 2#4
  | .busFault => 3#4
  | .illegalCommand => 4#4

/-- RES: the result as a word, the code in bits 31:28 and READ's byte in bits 7:0 (R202). -/
def Result.word : Result → BitVec 32
  | .okByte b => 0#4 ++ 0#20 ++ b
  | .okUnit => 0#32
  | .okImage _ => 0#32
  | .err code _ => code.number ++ 0#28

/-- The result is an error. -/
def Result.isErr : Result → Bool
  | .err _ _ => true
  | .okByte _ | .okUnit | .okImage _ => false

/-! ## Boot (R227), from any state at power-on -/

/-- Step (1): the write-enable line goes to its idle level first. -/
def bootWriteEnable (s : State) : State := { s with weN := true }

/-- Step (2): SER, SRCLK and RCLK at level 0. -/
def bootClocks (s : State) : State := { s with ser := false, srclk := false, rclk := false }

/-- Step (3): all data lines are inputs. -/
def bootData (s : State) : State := { s with dir := 0x00#8 }

/-- Step (4): the controller is IDLE and the log empty. -/
def bootPhase (s : State) : State := { s with phase := .idle, errlog := [] }

/-- Boot: the four steps in order. It latches no address and changes no cell (R226, R227). -/
def boot (s : State) : State := bootPhase (bootData (bootClocks (bootWriteEnable s)))

end Sys2Proof.Machine
end

