-- ==== Sys2Proof/Machine/DisplayDecoder.lean ====
section
/-! DEFINITION. The DisplayDecoderGenerator: GEN_DISPLAY (R155 to R164). -/

namespace Sys2Proof.Machine

/-- DigitDecode(n): entry n of the active variant's table (R155, R156). -/
def digitDecode (p : Params) (n : Nat) : Byte := p.digits p.variant (BitVec.ofNat 4 n)

/-- The byte of the unsigned region at a position, for the value u (R158). -/
def unsignedDigit (p : Params) (pos : BitVec 2) (u : Nat) : Byte :=
  if pos = 0#2 then digitDecode p (u % 10)
  else if pos = 1#2 then digitDecode p (u / 10 % 10)
  else if pos = 2#2 then digitDecode p (u / 100)
  else 0x00#8

/-- The byte of the signed region at a position, for the value x; the digits are those of the absolute
value, and the sign byte is no digit pattern (R159, R162). -/
def signedDigit (p : Params) (pos : BitVec 2) (x : Int) : Byte :=
  if pos = 0#2 then digitDecode p (x.natAbs % 10)
  else if pos = 1#2 then digitDecode p (x.natAbs / 10 % 10)
  else if pos = 2#2 then digitDecode p (x.natAbs / 100)
  else if x < 0 then 0x01#8 else 0x00#8

/-- DISP(a): the display image at address a (R158, R159). -/
def displayByte (p : Params) (a : BitVec 11) : Byte :=
  if dispRegion a then signedDigit p (dispPos a) (dispByte a).toInt
  else unsignedDigit p (dispPos a) (dispByte a).toNat

/-- The display image, addresses 0 to 2047 (R160). -/
def displayImage (p : Params) : List Byte :=
  (List.range 2048).map fun n => displayByte p (BitVec.ofNat 11 n)

/-- GEN_DISPLAY: returns the image; no bus event and no register changes (R36, R160). A command offered
while another is in flight has no step (R220). -/
def execGenDisplay (s : State) : Host.Outcome State Fault Refusal :=
  if s.phase = .idle then .next (answer (.okImage (displayImage Config.hardware)) s)
  else .refused .commandInFlight

end Sys2Proof.Machine
end

