-- ==== Sys2Proof/Machine/Flags.lean ====
section
/-! DEFINITION. Flags. The block has no condition flags (R21). Zero and Carry are the consumer CPU's and
appear only as the flagState index of the microcode image (R178). -/

namespace Sys2Proof.Machine

/-- The flagState index `f = 2·Z + C` (R178). -/
def flagIndex (zero carry : Bool) : FlagState := BitVec.ofBool zero ++ BitVec.ofBool carry

/-- The Zero flag of a flagState, `f[1]` (R178). -/
def zeroOf (f : FlagState) : Bool := f.getLsbD 1

/-- The Carry flag of a flagState, `f[0]` (R178). -/
def carryOf (f : FlagState) : Bool := f.getLsbD 0

end Sys2Proof.Machine
end

