-- ==== Sys2Proof/Machine/Microcode.lean ====
section
/-! DEFINITION. The MicrocodeGenerator: GEN_MICROCODE (R175 to R190). -/

namespace Sys2Proof.Machine

/-! ## Control words (R88, R175, R176) -/

/-- The word with only the given control line active, at the position CW_BIT gives it (R88). -/
def lineMask (p : Params) (l : ControlLine) : ControlWord := 1#16 <<< (p.cwBit l).val

/-- The union of control lines: bitwise OR of their masks (R88, R175). -/
def controlWord (p : Params) (ls : List ControlLine) : ControlWord :=
  ls.foldl (fun w l => w ||| lineMask p l) 0#16

/-- Membership of a line in a control word: `cw & mask ≠ 0` (R88). -/
def hasLine (p : Params) (w : ControlWord) (l : ControlLine) : Bool :=
  decide (w &&& lineMask p l ≠ 0#16)

/-- The first word of the fetch steps, {CO, MI} (R176). -/
def fetch0 (p : Params) : ControlWord := controlWord p [.CO, .MI]
/-- The second word of the fetch steps, {RO, II, CE} (R176). -/
def fetch1 (p : Params) : ControlWord := controlWord p [.RO, .II, .CE]
/-- The override word, {IO, JM} (R176). -/
def jumpWord (p : Params) : ControlWord := controlWord p [.IO, .JM]

/-- JC, opcode 0111 (R89). -/
def opcodeJC : Opcode := 7#4
/-- JZ, opcode 1000 (R89). -/
def opcodeJZ : Opcode := 8#4

/-! ## The base table (R177 to R180) -/

/-- A BASE table: 16 opcodes by 8 steps of control words (R177). -/
abbrev BaseTable := Opcode → MicroStep → ControlWord

/-- The words of steps 2 to 6 that a microprogram gives an opcode: none for JC, JZ, NOP and the reserved
opcodes; for any other opcode its non-zero words up to the first zero, at most 5 (R180). -/
def rowSteps (m : Microprogram) (o : Opcode) : List ControlWord :=
  if o = opcodeJC ∨ o = opcodeJZ ∨ o = m.nopOpcode ∨ o ∈ m.reservedOpcodes then []
  else ((m.activeSteps o).takeWhile fun w => decide (w ≠ 0#16)).take 5

/-- The BASE table of a microprogram: the fetch steps, the active steps, then zeros (R179, R180). -/
def baseTable (p : Params) (m : Microprogram) : BaseTable := fun o s =>
  if s = 0#3 then fetch0 p
  else if s = 1#3 then fetch1 p
  else (rowSteps m o).getD (s.toNat - 2) 0#16

/-- An opcode has no step after the fetch steps: `k(o) = 0` (R180 (c)). -/
abbrev BaseTable.noSteps (t : BaseTable) (o : Opcode) : Prop :=
  ∀ s : MicroStep, 2#3 ≤ s → t o s = 0#16

/-- The active steps of an opcode are steps 2 to 1 + k (R180 (b)). -/
abbrev BaseTable.activeUpTo (t : BaseTable) (o : Opcode) (k : Nat) : Prop :=
  ∀ s : MicroStep, 2#3 ≤ s → (t o s ≠ 0#16 ↔ s.toNat ≤ 1 + k)

/-- A BASE_TABLE with its NOP_OPCODE and RESERVED_OPCODES is admitted (R180; R7 for the reserved set). -/
abbrev BaseTable.Admitted (p : Params) (t : BaseTable) (nop : Opcode) (reserved : List Opcode) :
    Prop :=
  (∀ o : Opcode, t o 0#3 = fetch0 p ∧ t o 1#3 = fetch1 p) ∧
  (∀ o : Opcode, ∃ k ∈ List.range 6, BaseTable.activeUpTo t o k) ∧
  BaseTable.noSteps t opcodeJC ∧ BaseTable.noSteps t opcodeJZ ∧ BaseTable.noSteps t nop ∧
  (∀ o ∈ reserved, BaseTable.noSteps t o) ∧
  opcodeJC ∉ reserved ∧ opcodeJZ ∉ reserved

/-- The microprogram of an offered configuration, or none where R180 refuses the table (R208). -/
def microprogramOf? (p : Params) (t : BaseTable) (nop : Opcode) (reserved : List Opcode) :
    Option Microprogram :=
  if BaseTable.Admitted p t nop reserved then
    some
      { activeSteps := fun o => [t o 2#3, t o 3#3, t o 4#3, t o 5#3, t o 6#3]
        nopOpcode := nop
        reservedOpcodes := reserved }
  else none

/-! ## The variants and the image (R181, R183) -/

/-- UCODE(f, o, s): the table with the two conditional overrides (R181). -/
def ucode (p : Params) (t : BaseTable) (f : FlagState) (o : Opcode) (s : MicroStep) : ControlWord :=
  if o = opcodeJC ∧ s = 2#3 ∧ carryOf f then jumpWord p
  else if o = opcodeJZ ∧ s = 2#3 ∧ zeroOf f then jumpWord p
  else t o s

/-- MICRO(a): the low byte of the control word where byteSelect is 0, the high byte where it is 1
(R183). -/
def microByte (p : Params) (t : BaseTable) (a : BitVec 10) : Byte :=
  let w := ucode p t (ucodeFlags a) (ucodeOpcode a) (ucodeStep a)
  if ucodeByteSelect a then (w >>> 8).setWidth 8 else w.setWidth 8

/-- The microcode image of a table, addresses 0 to 1023 (R184). -/
def microImage (p : Params) (t : BaseTable) : List Byte :=
  (List.range 1024).map fun n => microByte p t (BitVec.ofNat 10 n)

/-- The image of an offered configuration: none where the table is refused (R180, R184, R208). -/
def microImage? (p : Params) (t : BaseTable) (nop : Opcode) (reserved : List Opcode) :
    Option (List Byte) :=
  (microprogramOf? p t nop reserved).map fun m => microImage p (baseTable p m)

/-- The image of the configured table (R184). -/
def configuredMicroImage (p : Params) : List Byte := microImage p (baseTable p p.micro)

/-- GEN_MICROCODE: returns the image of the configured table, which is admitted by construction; no bus
event and no register changes (R36, R184, R208). A command offered while another is in flight has no
step (R220). -/
def execGenMicrocode (s : State) : Host.Outcome State Fault Refusal :=
  if s.phase = .idle then .next (answer (.okImage (configuredMicroImage Config.hardware)) s)
  else .refused .commandInFlight

end Sys2Proof.Machine
end

