-- ==== Sys2Proof/Machine/AddressLatch.lean ====
section
/-! DEFINITION. The AddressLatch: SET_ADDRESS (R110 to R119) and its pin-level refinement (R117). -/

namespace Sys2Proof.Machine

/-- `shift_in(b)`: `SR <- ((SR << 1) | b) & 0xFFFF`; SER carries the bit and SRCLK ends low (R113, R117). -/
def shiftIn (b : Bool) (s : State) : State :=
  { s with sr := (s.sr <<< 1) ||| bitWord 16 b, ser := b, srclk := false }

/-- `latch_pulse()`: `Q <- SR`, and RCLK ends low (R115). -/
def latchPulse (s : State) : State := { s with q := s.sr, rclk := false }

/-- The 16 shifts of a latch word, bit 15 first (R112). -/
def shiftWord (w : LatchWord) (s : State) : State :=
  bitsDown.foldl (fun t k => shiftIn (w.getLsbD k) t) s

/-- SET_ADDRESS(a, oe): shifts the latch word in, pulses the latch, emits LATCH(w) (R110). -/
def setAddress (p : Params) (a : Address) (oe : Bool) (s : State) : State :=
  emit (.latch (latchWord a oe)) (latchPulse (shiftWord (latchWord a oe) (chipTick p s)))

/-- SET_ADDRESS as an instruction of its own (R83, R110). -/
def execSetAddress (a : Address) (oe : Bool) (s : State) : Host.Outcome State Fault Refusal :=
  .next (setAddress Config.hardware a oe s)

/-! ## The pin level (R117) -/

/-- One change of a serial line. -/
inductive PinAction where
  | ser (b : Bool)
  | srclk (b : Bool)
  | rclk (b : Bool)
deriving DecidableEq, Repr

/-- What a change of a line does: a rising edge of SRCLK shifts SER into SR, a rising edge of RCLK copies
SR into Q, and no other edge does anything (R115, R117). -/
def applyPin (s : State) : PinAction → State
  | .ser b => { s with ser := b }
  | .srclk b =>
    if !s.srclk && b then { s with srclk := b, sr := (s.sr <<< 1) ||| bitWord 16 s.ser }
    else { s with srclk := b }
  | .rclk b => if !s.rclk && b then { s with rclk := b, q := s.sr } else { s with rclk := b }

/-- The line changes that shift a word in: for each bit the data, the clock high, the clock low (R117). -/
def shiftPins (w : LatchWord) : List PinAction :=
  bitsDown.flatMap fun k => [.ser (w.getLsbD k), .srclk true, .srclk false]

/-- The whole sequence that LATCH(w) stands for (R117). -/
def latchPins (w : LatchWord) : List PinAction :=
  shiftPins w ++ [.rclk false, .rclk true, .rclk false]

end Sys2Proof.Machine
end

