-- ==== Sys2Proof/Machine/Transport.lean ====
section
/-! DEFINITION. The ByteTransport and WriteCommit: READ (R125), WRITE (R128) and WRITE_COMMIT (R140), as the
phases of R30. `phaseStep` is the controller's one step inside a command; a command runs its phases to
the end (R30: the collapse is exact, since no other agent acts on the bus during a command). -/

namespace Sys2Proof.Machine

/-! ## The phases of READ (R125) -/

/-- RD_DIR: the data lines become inputs. -/
def rdDir (p : Params) (s : State) : State := { dirIn p s with phase := .rdLatch }

/-- RD_LATCH: the address is latched with output enable asserted. -/
def rdLatch (p : Params) (s : State) : State :=
  { setAddress p s.opAddr true s with phase := .rdSample }

/-- RD_SAMPLE: the eight lines are sampled and the byte is returned. -/
def rdSample (p : Params) (s : State) : State :=
  let r := sampleByte p s
  answer (.okByte r.1) r.2

/-! ## The phases of WRITE (R128) -/

/-- WR_LATCH: the address is latched with output enable not asserted. -/
def wrLatch (p : Params) (s : State) : State :=
  { setAddress p s.opAddr false s with phase := .wrDir }

/-- WR_DIR: the data lines become outputs. -/
def wrDir (p : Params) (s : State) : State := { dirOut p s with phase := .wrDrive }

/-- WR_DRIVE: the value is driven onto the lines. -/
def wrDrive (p : Params) (s : State) : State := { drive p s.opVal s with phase := .wrPulse }

/-- WR_PULSE: the write-enable pulse (R130). -/
def wrPulse (p : Params) (s : State) : State :=
  { weHigh p (waitWp p (weLow p s)) with phase := .wcDir }

/-! ## The phases of WRITE_COMMIT (R140) -/

/-- WC_DIR: the data lines return to inputs, before output enable is asserted (R141). -/
def wcDir (p : Params) (s : State) : State := { dirIn p s with phase := .wcLatch }

/-- WC_LATCH: the address is latched again with output enable asserted; `POLLS <- 0`. -/
def wcLatch (p : Params) (s : State) : State :=
  { setAddress p s.opAddr true s with polls := 0, phase := .wcSample }

/-- The poll bound is reached: `POLL_MAX ≠ none and POLLS ≥ POLL_MAX` (R140, R143). -/
def pollBoundReached (p : Params) (polls : Nat) : Bool :=
  match p.pollMax with
  | none => false
  | some m => decide (m ≤ polls)

/-- WC_SAMPLE: D7 is sampled and counted. A match returns Ok; a mismatch at the bound raises WriteTimeout;
any other mismatch goes on to wait (R140, R142, R143, R204). After the timeout the cell of a write still
in progress is unspecified (R147). -/
def wcSample (p : Params) (s : State) : State :=
  let r := sample p 7 s
  let t := { r.2 with polls := r.2.polls + 1 }
  if r.1 = t.opVal.getLsbD 7 then answer .okUnit t
  else if pollBoundReached p t.polls then
    raise .writeTimeout (commandWord 2#4 t.opAddr t.opVal) (.timeout t.opAddr t.opVal t.polls)
      (unsettle p t)
  else { t with phase := .wcWait }

/-- WC_WAIT: at least T_POLL, then the next sample. -/
def wcWait (p : Params) (s : State) : State := { waitPoll p s with phase := .wcSample }

/-! ## Running the phases -/

/-- One step of the controller inside a command: the phase's events, and the next phase (R30). -/
def phaseStep (p : Params) (s : State) : State :=
  match s.phase with
  | .idle => s
  | .rdDir => rdDir p s
  | .rdLatch => rdLatch p s
  | .rdSample => rdSample p s
  | .wrLatch => wrLatch p s
  | .wrDir => wrDir p s
  | .wrDrive => wrDrive p s
  | .wrPulse => wrPulse p s
  | .wcDir => wcDir p s
  | .wcLatch => wcLatch p s
  | .wcSample => wcSample p s
  | .wcWait => wcWait p s

/-- Phase steps until the command has ended, at most n of them (IDLE has no phase step). -/
def runPhases (p : Params) : Nat → State → State
  | 0, s => s
  | n + 1, s => runPhases p n (phaseStep p s)

/-- How many samples one run of the poll loop may take: POLL_MAX; or for the unbounded loop one more than
the bus events the chip's write cycle still outlasts, after which a chip that finishes has finished. A
loop that has not ended by then stays in flight and goes on at the machine's next steps (R144). -/
def pollBudget (p : Params) (s : State) : Nat :=
  match p.pollMax with
  | some m => m
  | none => s.cycleLeft.getD 0 + 1

/-- READ(a) takes up its first phase (R125). -/
def startRead (a : Address) (s : State) : State := { s with phase := .rdDir, opAddr := a }

/-- WRITE(a, v) takes up its first phase (R128). -/
def startWrite (a : Address) (v : Byte) (s : State) : State :=
  { s with phase := .wrLatch, opAddr := a, opVal := v }

/-- READ(a) as a whole, from IDLE (R125). -/
def readCommand (p : Params) (a : Address) (s : State) : State :=
  if inRange p a then runPhases p 3 (startRead a s)
  else raise .invalidAddress (commandWord 1#4 a 0#8) (.address a) s

/-- WRITE(a, v) as a whole, from IDLE: six phases up to the poll loop, then the loop (R128, R140). -/
def writeCommand (p : Params) (a : Address) (v : Byte) (s : State) : State :=
  if inRange p a then
    let t := runPhases p 6 (startWrite a v s)
    runPhases p (2 * pollBudget p t) t
  else raise .invalidAddress (commandWord 2#4 a v) (.address a) s

/-! ## The instructions -/

/-- READ (R125). A command offered while another is in flight has no step (R220). -/
def execRead (a : Address) (s : State) : Host.Outcome State Fault Refusal :=
  if s.phase = .idle then .next (readCommand Config.hardware a s) else .refused .commandInFlight

/-- WRITE (R128). A command offered while another is in flight has no step (R220). -/
def execWrite (a : Address) (v : Byte) (s : State) : Host.Outcome State Fault Refusal :=
  if s.phase = .idle then .next (writeCommand Config.hardware a v s)
  else .refused .commandInFlight

end Sys2Proof.Machine
end

