-- ==== Sys2Proof/Machine/Dispatch.lean ====
section
/-! DEFINITION. What each instruction does: one arm per constructor, one meaning per arm. -/

namespace Sys2Proof.Machine

def exec (i : Instr) (s : State) : Host.Outcome State Fault Refusal :=
  match i with
  | .read a => Sys2Proof.Machine.execRead a s
  | .write a v => Sys2Proof.Machine.execWrite a v s
  | .genDisplay => Sys2Proof.Machine.execGenDisplay s
  | .genMicrocode => Sys2Proof.Machine.execGenMicrocode s
  | .setAddress a oe => Sys2Proof.Machine.execSetAddress a oe s

end Sys2Proof.Machine
end

