-- ==== Sys2Proof/Machine/HostAgent.lean ====
section
/-! DEFINITION. The host: how it issues the next command word and what the decoder's refusal of one is
(R13, R206). The sequences it runs are in Machine/PseudoOps.lean. -/

namespace Sys2Proof.Machine

/-- One host command word, taken at IDLE: the decoded instruction runs, and a word that stands for none
raises IllegalCommand, with no bus event (R93, R206, R209). -/
def issue (w : CommandWord) (s : State) : Host.Outcome State Fault Refusal :=
  match decode Config.hardware (.command w) with
  | .ok i => exec i s
  | .error _ => .next (raise .illegalCommand w (.word w) s)

/-- One latch word given to the AddressLatch on its own (R83, R110). -/
def issueLatch (w : LatchWord) (s : State) : Host.Outcome State Fault Refusal :=
  match decode Config.hardware (.latch w) with
  | .ok i => exec i s
  | .error _ => .refused .latchRsvdNotZero

end Sys2Proof.Machine
end

