-- ==== Sys2Proof/Machine/Step.lean ====
section
/-! DEFINITION. One step of the machine (R13, R30, R220, R228), and where its next word is placed. -/

namespace Sys2Proof.Machine

/-- A command in flight goes on by one phase, and nothing else runs meanwhile (R220, R232). At IDLE a
latch word given to the AddressLatch runs first; then the host's next command word is taken and run;
with neither, the controller waits and only the chip's write cycle advances (R55, R228). -/
def step (s : State) : Host.Outcome State Fault Refusal :=
  if s.phase = .idle then
    match s.latchPort with
    | some w => issueLatch w { s with latchPort := none }
    | none =>
      match s.pending with
      | [] => .next (chipTick Config.hardware s)
      | w :: ws => issue w { s with pending := ws }
  else .next (phaseStep Config.hardware s)

/-- The state whose very next step runs the given word: the controller is at IDLE, and a host command
word is the host's next command with nothing given to the AddressLatch, while a latch word is given to
the AddressLatch. -/
def State.withFetchWord (s : State) (nbits w : Nat) : State :=
  match wireOfTableWord nbits w with
  | some (.command c) => { s with pending := c :: s.pending, phase := .idle, latchPort := none }
  | some (.latch c) => { s with latchPort := some c, phase := .idle }
  | none => s

end Sys2Proof.Machine
end

