-- ==== Sys2Proof/Machine/PseudoOps.lean ====
section
/-! DEFINITION. The host's sequences of commands (R95): the pseudo-operations, each of which issues a command
only after the one before it has returned and ends at the first error (R101 to R105). -/

namespace Sys2Proof.Machine

/-! ## Running a sequence -/

/-- A sequence under way: the commands the host has not issued yet, the next one first, and the machine.
While PHASE is not IDLE the command issued last has not returned. -/
structure Sequence where
  rest : List Instr
  state : State
deriving DecidableEq, Repr

/-- One outcome after another: a fault or a refusal ends both. -/
def thenRun {σ τ : Type} (o : Host.Outcome σ Fault Refusal) (f : σ → Host.Outcome τ Fault Refusal) :
    Host.Outcome τ Fault Refusal :=
  match o with
  | .next s => f s
  | .fault e => .fault e
  | .refused e => .refused e

/-- The result the host received last is an error. -/
def lastIsErr (s : State) : Bool :=
  match s.results.getLast? with
  | some r => r.isErr
  | none => false

/-- The host after its last command has run so far: it waits while that command has not returned; an error
ends the sequence, and whatever remains of it is not issued; after Ok the next command is issued (R95,
R101 to R105, R220). -/
def goOn : List Instr → State → Host.Outcome Sequence Fault Refusal
  | [], t => .next { rest := [], state := t }
  | i :: is, t =>
    if t.phase ≠ .idle then .next { rest := i :: is, state := t }
    else if lastIsErr t then .next { rest := [], state := t }
    else thenRun (exec i t) (goOn is)

/-- Runs commands from the first to the last, up to the end of the sequence or to a command that has not
returned, which can be only a WRITE in the unbounded loop (R144, log entry 22). -/
def runUntilError (is : List Instr) (s : State) : Host.Outcome Sequence Fault Refusal :=
  match is with
  | [] => .next { rest := [], state := s }
  | i :: is => thenRun (exec i s) (goOn is)

/-- A sequence whose command has not returned goes on by one step of the machine: the command's next phase,
and if it returns with that, the commands that remain (R144, R220). A sequence that has ended stays. -/
def resume (q : Sequence) : Host.Outcome Sequence Fault Refusal :=
  if q.state.phase = .idle then .next q else thenRun (step q.state) (goOn q.rest)

/-- A sequence resumed n times. -/
def resumeFor : Nat → Sequence → Host.Outcome Sequence Fault Refusal
  | 0, q => .next q
  | n + 1, q => thenRun (resume q) (resumeFor n)

/-! ## The pseudo-operations -/

/-- BURN img: writes the image's bytes from address 0 upward (R105). -/
def burnCommands (img : List Byte) : List Instr :=
  img.zipIdx.map fun x => .write (BitVec.ofNat 16 x.2) x.1

/-- ERASE: writes 0xFF to every address in rising order (R103). -/
def eraseCommands (p : Params) : List Instr :=
  (List.range p.romSize).map fun n => .write (BitVec.ofNat 16 n) 0xFF#8

/-- DUMP base, n: reads n addresses from base upward (R104). -/
def dumpCommands (base : Address) (n : Nat) : List Instr :=
  (List.range n).map fun i => .read (BitVec.ofNat 16 (base.toNat + i))

/-- The bytes that READs have returned among some results: DUMP's own result (R104). -/
def bytesRead (rs : List Result) : List Byte :=
  rs.filterMap fun r =>
    match r with
    | .okByte b => some b
    | .okUnit | .okImage _ | .err _ _ => none

/-- BURN (R105). -/
def burn (img : List Byte) (s : State) : Host.Outcome Sequence Fault Refusal :=
  runUntilError (burnCommands img) s

/-- A generator, then BURN of the image it returned (R101, R102). -/
def burnGenerated (gen : Instr) (s : State) : Host.Outcome Sequence Fault Refusal :=
  thenRun (exec gen s) fun t =>
    match t.results.getLast? with
    | some (.okImage img) => burn img t
    | _ => .next { rest := [], state := t }

/-- BURN_MICROCODE (R101). -/
def burnMicrocode (s : State) : Host.Outcome Sequence Fault Refusal := burnGenerated .genMicrocode s

/-- BURN_DISPLAY (R102). -/
def burnDisplay (s : State) : Host.Outcome Sequence Fault Refusal := burnGenerated .genDisplay s

/-- ERASE (R103). -/
def eraseAll (s : State) : Host.Outcome Sequence Fault Refusal :=
  runUntilError (eraseCommands Config.hardware) s

/-- DUMP (R104). -/
def dump (base : Address) (n : Nat) (s : State) : Host.Outcome Sequence Fault Refusal :=
  runUntilError (dumpCommands base n) s

end Sys2Proof.Machine
end

