-- ==== Sys2Proof/Safety.lean ====
section
/-! DEFINITION. What counts as a safe state and a safe run: the bus orders of R25, R230 and R231 as an
invariant of every state between two steps, the states a run reaches, and closed forms of what a
command leaves behind, in the terms the statements use. -/

namespace Sys2Proof.Machine

/-! ## Bus safety -/

/-- All 8 data lines have one direction: `DIR ∈ {0x00, 0xFF}` (R25). -/
def DirUniform (s : State) : Prop := s.dir = 0x00#8 ∨ s.dir = 0xFF#8

/-- The controller and the chip do not drive the data lines together: `DIR = 0xFF` implies `OE_N = 1`
(R230). -/
def NoContention (s : State) : Prop := s.dir = 0xFF#8 → outputEnableN s.q = true

/-- The lines' idle levels: WE_N high (R27), the two clocks low (R117). -/
def LinesIdle (s : State) : Prop := s.weN = true ∧ s.srclk = false ∧ s.rclk = false

/-- What the bus holds before each phase of a command in flight (R125, R128, R140, R230, R231). -/
def PhaseBus (s : State) : Prop :=
  match s.phase with
  | .idle | .rdDir | .wrLatch => s.dir = 0x00#8
  | .rdLatch => s.dir = 0x00#8
  | .rdSample => s.dir = 0x00#8 ∧ s.q = latchWord s.opAddr true
  | .wrDir => s.dir = 0x00#8 ∧ s.q = latchWord s.opAddr false
  | .wrDrive => s.dir = 0xFF#8 ∧ s.q = latchWord s.opAddr false
  | .wrPulse => s.dir = 0xFF#8 ∧ s.q = latchWord s.opAddr false ∧ s.dout = s.opVal
  | .wcDir => s.dir = 0xFF#8 ∧ s.q = latchWord s.opAddr false ∧ s.dout = s.opVal
  | .wcLatch => s.dir = 0x00#8 ∧ s.q = latchWord s.opAddr false ∧ s.dout = s.opVal
  | .wcSample | .wcWait => s.dir = 0x00#8 ∧ s.q = latchWord s.opAddr true ∧ s.dout = s.opVal

/-- A command in flight has passed its range check (R205, R233). -/
def InFlightInRange (p : Params) (s : State) : Prop := s.phase = .idle ∨ inRange p s.opAddr

/-- PEND_ADDR is the address of a cell that exists (R35), whether or not a write is in progress; that it is so
after reset is log entry 6's choice. -/
abbrev PendingInRange (p : Params) (s : State) : Prop := s.pendAddr.toNat < p.romSize

/-- The chip's hidden state is at rest while no write cycle is in progress. -/
def ChipAtRest (s : State) : Prop := s.busy = false → s.cycleLeft = none ∧ s.overlapped = false

/-- The invariant that the state after reset meets and every step keeps. -/
def SafeState (p : Params) (s : State) : Prop :=
  Memory.wf p s.mem ∧ LinesIdle s ∧ PhaseBus s ∧ InFlightInRange p s ∧ PendingInRange p s ∧
    ChipAtRest s

/-- The states a run reaches, those inside a command among them: from reset, by the host appending any
command word to those it has yet to issue, by the chip failing or recovering (R126), by a READ or a WRITE
taking up its first phase at IDLE, by a phase of a command in flight, and by the machine's steps. -/
inductive Reachable : State → Prop where
  | reset : Reachable State.reset
  | offer (s : State) (w : CommandWord) : Reachable s → Reachable { s with pending := s.pending ++ [w] }
  | chip (s : State) (b : Bool) : Reachable s → Reachable { s with faulty := b }
  | startRead (s : State) (a : Address) : Reachable s → s.phase = .idle →
      inRange Config.hardware a → Reachable (startRead a s)
  | startWrite (s : State) (a : Address) (v : Byte) : Reachable s → s.phase = .idle →
      inRange Config.hardware a → Reachable (startWrite a v s)
  | phase (s : State) : Reachable s → Reachable (phaseStep Config.hardware s)
  | step (s t : State) : Reachable s → step s = .next t → Reachable t

/-- The direction of the data lines and the level of OE_N, the pair of R230. -/
def busPair (s : State) : Byte × Bool := (s.dir, outputEnableN s.q)

/-! ## Traces -/

/-- The events of a WRITE before its poll loop (R128, R140). -/
def writeEvents (a : Address) (v : Byte) : List Event :=
  [.latch (latchWord a false), .dirOut, .drive v, .weLow, .waitWp, .weHigh, .dirIn,
    .latch (latchWord a true)]

/-- The events of k mismatching samples, each with its wait (R146). -/
def busyPolls (v : Byte) (k : Nat) : List Event :=
  (List.replicate k [Event.sample 7 (!v.getLsbD 7), Event.waitPoll]).flatten

/-- The events of a poll loop that matches after k busy samples (R146). -/
def okPolls (v : Byte) (k : Nat) : List Event := busyPolls v k ++ [.sample 7 (v.getLsbD 7)]

/-- The events of a poll loop that times out after m samples, m at least 1: no wait after the last
(R143, R146). -/
def timeoutPolls (v : Byte) (m : Nat) : List Event :=
  busyPolls v (m - 1) ++ [.sample 7 (!v.getLsbD 7)]

/-- The events of a READ that samples the byte b (R125). -/
def readEvents (a : Address) (b : Byte) : List Event :=
  [.dirIn, .latch (latchWord a true)] ++ linesDown.map fun i => .sample i (b.getLsbD i)

/-- A lower bound of the time a list of events takes (R236). -/
def traceAtLeast (p : Params) (es : List Event) : Nat := (es.map (Event.atLeast p)).sum

/-! ## Closed forms -/

/-- The number k of polling samples that see the chip busy, for a write cycle that outlasts d bus events:
DIR_IN and LATCH pass before the first sample, and a wait between any two samples (R55, R146). -/
def busySamples (d : Nat) : Nat := (d - 1) / 2

/-- The registers after SET_ADDRESS(a, oe): SR and Q hold the latch word, SER its last bit, the clocks are
low (R110, R117). -/
def latched (a : Address) (oe : Bool) (s : State) : State :=
  { s with
    sr := latchWord a oe
    q := latchWord a oe
    ser := (latchWord a oe).getLsbD 0
    srclk := false
    rclk := false }

/-- The registers after the poll loop of WRITE(a, v), whatever its end (R132). -/
def afterWriteBus (a : Address) (v : Byte) (s : State) : State :=
  { latched a true s with
    dir := 0x00#8
    dout := v
    weN := true
    opAddr := a
    opVal := v
    pendAddr := a.setWidth 15
    pendVal := v
    draws := s.draws + 1 }

/-- WRITE(a, v) returns Ok on a chip that was not busy, after k busy samples (R132, R146). -/
def afterWriteOk (p : Params) (a : Address) (v : Byte) (k : Nat) (s : State) : State :=
  { afterWriteBus a v s with
    phase := .idle
    polls := k + 1
    mem := Memory.write p.initialByte s.mem a.toNat v
    busy := false
    cycleLeft := none
    overlapped := false
    trace := s.trace ++ writeEvents a v ++ okPolls v k
    results := s.results ++ [.okUnit] }

/-- WRITE(a, v) raises WriteTimeout after m samples on a chip that was not busy; the chip is still busy
and outlasts `left` more bus events, and the cell is unspecified until it finishes (R132, R146, R147,
R204). -/
def afterWriteTimeout (p : Params) (a : Address) (v : Byte) (m : Nat) (left : Option Nat) (s : State) : State :=
  { afterWriteBus a v s with
    phase := .idle
    polls := m
    mem := Memory.write p.initialByte s.mem a.toNat (p.cellByte (s.draws + 1))
    busy := true
    cycleLeft := left
    overlapped := false
    draws := s.draws + 2
    errlog := s.errlog ++
      [{ code := .writeTimeout, command := commandWord 2#4 a v, info := .timeout a v m }]
    trace := s.trace ++ writeEvents a v ++ timeoutPolls v m
    results := s.results ++ [.err .writeTimeout (.timeout a v m)] }

/-- WRITE(a, v) in the unbounded loop on a chip that never finishes: still in flight, after its first
sample and wait (R144). -/
def afterWriteHang (a : Address) (v : Byte) (s : State) : State :=
  { afterWriteBus a v s with
    phase := .wcSample
    polls := 1
    busy := true
    cycleLeft := none
    overlapped := false
    trace := s.trace ++ writeEvents a v ++ busyPolls v 1 }

/-- What WRITE(a, v) leaves on a chip that was not busy, by the poll bound and the chip's draw (R146). -/
def afterWrite (p : Params) (a : Address) (v : Byte) (s : State) : State :=
  match p.cycleEvents s.draws, p.pollMax with
  | some d, none => afterWriteOk p a v (busySamples d) s
  | some d, some m =>
    if busySamples d < m then afterWriteOk p a v (busySamples d) s
    else afterWriteTimeout p a v m (some (d - (2 * m + 1))) s
  | none, some m => afterWriteTimeout p a v m none s
  | none, none => afterWriteHang a v s

end Sys2Proof.Machine
end

