-- ==== Sys2Proof/Certificates/Slice0/Obligations.lean ====
section
/-! DEFINITION. The statements for the provers, each about every state and operand it names. Where one
speaks of `Config.hardware` it holds for whatever values the open constants have. A sound chip is one whose
model field `faulty` is false (R126, log entry 26). -/

open Sys2Proof Sys2Proof.Machine

/-! ## Encodings -/

/-- Decoding an encoded well-formed instruction gives it back (R93, R94; R85 for SET_ADDRESS),
at any configuration. -/
def Obligations.DecodeOfEncode : Prop :=
  ∀ (p : Params) (i : Instr), i.WellFormed p → decode p (encode i) = .ok i

/-- A word has at most one meaning: what it decodes to is well formed and encodes back to it. -/
def Obligations.EncodeOfDecode : Prop :=
  ∀ (p : Params) (x : Wire) (i : Instr), decode p x = .ok i → i.WellFormed p ∧ encode i = x

/-- R94: each typed call is the command word R94 gives, for every address and value. -/
def Obligations.TypedCallsDecode : Prop :=
  (∀ a : Address, decodeCommand ((1#32 <<< 28) ||| (a.setWidth 32 <<< 8)) = .ok (.read a)) ∧
  (∀ (a : Address) (v : Byte),
    decodeCommand ((2#32 <<< 28) ||| (a.setWidth 32 <<< 8) ||| v.setWidth 32) = .ok (.write a v)) ∧
  decodeCommand 0x30000000#32 = .ok .genDisplay ∧
  decodeCommand 0x40000000#32 = .ok .genMicrocode

/-- The decoder refuses exactly the words R206 lists: a reserved OP, a non-zero RSVD, or a non-zero
field that the command's row says must be 0. -/
def Obligations.DecoderRefusesExactly : Prop :=
  ∀ w : CommandWord, (∃ e, decodeCommand w = .error e) ↔
    (w.extractLsb' 28 4 ≠ 1#4 ∧ w.extractLsb' 28 4 ≠ 2#4 ∧ w.extractLsb' 28 4 ≠ 3#4 ∧
      w.extractLsb' 28 4 ≠ 4#4) ∨
    w.extractLsb' 24 4 ≠ 0#4 ∨
    (w.extractLsb' 28 4 = 1#4 ∧ w.extractLsb' 0 8 ≠ 0#8) ∨
    ((w.extractLsb' 28 4 = 3#4 ∨ w.extractLsb' 28 4 = 4#4) ∧
      (w.extractLsb' 8 16 ≠ 0#16 ∨ w.extractLsb' 0 8 ≠ 0#8))

/-- Words of the spec's tables decode to what stands beside them (R119, L2.1). -/
def Obligations.TableWordsDecode : Prop :=
  decodeTableWord 32 0x10012300 = some (.read 0x123#16) ∧
  decodeTableWord 32 0x200123A5 = some (.write 0x123#16 0xA5#8) ∧
  decodeTableWord 32 0x30000000 = some .genDisplay ∧
  decodeTableWord 32 0x40000000 = some .genMicrocode ∧
  decodeTableWord 16 0x8123 = some (.setAddress 0x123#16 false) ∧
  decodeTableWord 16 0x07FF = some (.setAddress 0x7FF#16 true) ∧
  decodeTableWord 32 0x1F080000 = none ∧
  decodeTableWord 32 0x50000000 = none

/-! ## Steps -/

/-- At IDLE with nothing given to the AddressLatch, a step takes the host's next word and, where it
decodes, is exec of the decoded instruction; the word has left the host's list. The list of words is
the model's (log entry 15). -/
def Obligations.StepRunsDecoded : Prop :=
  ∀ (s : State) (w : CommandWord) (ws : List CommandWord) (i : Instr),
    s.phase = .idle → s.latchPort = none → s.pending = w :: ws →
    decode Config.hardware (.command w) = .ok i →
    step s = exec i { s with pending := ws }

/-- At IDLE a latch word given to the AddressLatch runs as the SET_ADDRESS it encodes, and the port
is empty again. The port is the model's (log entry 14). -/
def Obligations.StepRunsLatchWord : Prop :=
  ∀ (s : State) (a : Address) (oe : Bool),
    s.phase = .idle → inRange Config.hardware a → s.latchPort = some (latchWord a oe) →
    step s = exec (.setAddress a oe) { s with latchPort := none }

/-- R206: a reserved OP or a non-zero must-be-zero field raises IllegalCommand with the word as its
info; nothing else changes, and no bus event is emitted. That the word leaves the host's list is the
model's choice (log entry 15), and so is the list of answers (log entry 18). -/
def Obligations.IllegalCommandRaised : Prop :=
  ∀ (s : State) (w : CommandWord) (ws : List CommandWord),
    s.phase = .idle → s.latchPort = none → s.pending = w :: ws →
    ((w.extractLsb' 28 4 ≠ 1#4 ∧ w.extractLsb' 28 4 ≠ 2#4 ∧ w.extractLsb' 28 4 ≠ 3#4 ∧
        w.extractLsb' 28 4 ≠ 4#4) ∨
      w.extractLsb' 24 4 ≠ 0#4 ∨
      (w.extractLsb' 28 4 = 1#4 ∧ w.extractLsb' 0 8 ≠ 0#8) ∨
      ((w.extractLsb' 28 4 = 3#4 ∨ w.extractLsb' 28 4 = 4#4) ∧
        (w.extractLsb' 8 16 ≠ 0#16 ∨ w.extractLsb' 0 8 ≠ 0#8))) →
    step s = .next { s with
      pending := ws
      errlog := s.errlog ++ [{ code := .illegalCommand, command := w, info := .word w }]
      results := s.results ++ [.err .illegalCommand (.word w)] }

/-- At IDLE with nothing to run the controller waits: only the chip's write cycle advances. That the
cycle advances in a waiting step is the model's choice (log entry 10). -/
def Obligations.StepWaits : Prop :=
  ∀ s : State, s.phase = .idle → s.latchPort = none → s.pending = [] →
    ∃ t, step s = .next t ∧
      t = { s with mem := t.mem, busy := t.busy, cycleLeft := t.cycleLeft, overlapped := t.overlapped } ∧
      (s.busy = false → t = s)

/-- While PHASE is not IDLE a step is one phase of the command in flight, and leaves the host's words
and the latch port waiting (R220, R232); a command offered then has no step: each of the four host
commands is refused. The refusal's form is the model's choice (log entry 13), and so are the list and
the port (log entries 15 and 14). -/
def Obligations.CommandInFlightRefused : Prop :=
  ∀ s : State, s.phase ≠ .idle →
    step s = .next (phaseStep Config.hardware s) ∧
    (phaseStep Config.hardware s).pending = s.pending ∧
    (phaseStep Config.hardware s).latchPort = s.latchPort ∧
    (∀ a, exec (.read a) s = .refused .commandInFlight) ∧
    (∀ a v, exec (.write a v) s = .refused .commandInFlight) ∧
    exec .genDisplay s = .refused .commandInFlight ∧
    exec .genMicrocode s = .refused .commandInFlight

/-- No step ends in a fault, and the only refusal of a step is, at IDLE, of a latch word with a
non-zero reserved bit. The port that holds such a word and its refusal by the name latchRsvdNotZero are
the model's choice (log entry 14). -/
def Obligations.StepNeverFaults : Prop :=
  ∀ s : State, (∀ f, step s ≠ .fault f) ∧
    ∀ r, step s = .refused r ↔ r = .latchRsvdNotZero ∧ s.phase = .idle ∧
      ∃ w : LatchWord, s.latchPort = some w ∧ w.extractLsb' 11 4 ≠ 0#4

/-! ## SET_ADDRESS -/

/-- SET_ADDRESS(a, oe) completes from every state: SR and Q hold the latch word of R85, the serial
lines are as R117 leaves them, LATCH(w) is emitted, and nothing else changes but what the chip's own
write cycle does meanwhile: nothing where none is in progress, and never to a cell other than its
own. For an address in range the word asserts output enable as asked and addresses that cell. When
the cycle ends is the model's free value (log entry 10); that it completes from a PHASE other than IDLE
(log entry 14) and for an address out of range (log entry 23) is the model's choice. -/
def Obligations.SetAddressLatches : Prop :=
  ∀ (a : Address) (oe : Bool) (s : State),
    ∃ t, exec (.setAddress a oe) s = .next t ∧
      t = { s with
        sr := (if oe then 0x0000#16 else 0x8000#16) ||| a
        q := (if oe then 0x0000#16 else 0x8000#16) ||| a
        ser := a.getLsbD 0
        srclk := false
        rclk := false
        trace := s.trace ++ [.latch ((if oe then 0x0000#16 else 0x8000#16) ||| a)]
        mem := t.mem
        busy := t.busy
        cycleLeft := t.cycleLeft
        overlapped := t.overlapped } ∧
      (s.busy = false → t.mem = s.mem ∧ t.busy = s.busy ∧ t.cycleLeft = s.cycleLeft ∧
        t.overlapped = s.overlapped) ∧
      (Memory.wf Config.hardware s.mem → ∀ x : CellAddress, x ≠ s.pendAddr →
        t.cell Config.hardware x = s.cell Config.hardware x) ∧
      (inRange Config.hardware a →
        outputEnableN t.q = !oe ∧ chipAddress Config.hardware t.q = a.setWidth 15)

/-- The pin-level sequence of R117, with its edges, leaves what SET_ADDRESS leaves in the registers,
when the shift clock is low at its start, whatever SR held before. -/
def Obligations.PinLevelLatches : Prop :=
  ∀ (w : LatchWord) (s : State), s.srclk = false →
    (latchPins w).foldl applyPin s =
      { s with sr := w, q := w, ser := w.getLsbD 0, srclk := false, rclk := false }

/-- R238 and R114: while the 16 bits are shifted, and until RCLK rises, Q keeps its previous value;
from the rise on it is the new word. -/
def Obligations.StorageHeldWhileShifting : Prop :=
  ∀ (w : LatchWord) (s : State) (n : Nat), s.srclk = false →
    (n ≤ 49 → (((latchPins w).take n).foldl applyPin s).q = s.q) ∧
    (50 ≤ n → (((latchPins w).take n).foldl applyPin s).q = w)

/-- The latch words at the edges of the address range, and the level of OE_N in each (R119). -/
def Obligations.LatchWordsAtTheEdges : Prop :=
  latchWord 0x000#16 true = 0x0000#16 ∧ outputEnableN 0x0000#16 = false ∧
  latchWord 0x000#16 false = 0x8000#16 ∧ outputEnableN 0x8000#16 = true ∧
  latchWord 0x7FF#16 true = 0x07FF#16 ∧ outputEnableN 0x07FF#16 = false ∧
  latchWord 0x7FF#16 false = 0x87FF#16 ∧ outputEnableN 0x87FF#16 = true ∧
  latchWord 0x100#16 true = 0x0100#16 ∧ outputEnableN 0x0100#16 = false ∧
  latchWord 0x0FF#16 false = 0x80FF#16 ∧ outputEnableN 0x80FF#16 = true

/-! ## The chip -/

/-- R54: the level of a sampled line, where the chip's write cycle does not end at that very moment:
a draw where the controller drives the line or output enable is not asserted, and from a disconnected
or faulty chip (R126); of a sound chip the complement of the
written bit on D7 at the pending address of a busy chip; a draw on any other line or address of a
busy chip, and on every line during an overlapped write (R149); and the addressed cell's bit on an
idle chip. The draws are indexed by the model's counter (log entry 11), the overlapped case is log
entry 12's, and the form of the faulty chip log entry 26's. -/
def Obligations.SampleLevels : Prop :=
  ∀ (p : Params) (i : Nat) (s : State), i < 8 → (s.busy = true → s.cycleLeft ≠ some 0) →
    let r := sample p i s
    r.2.trace = s.trace ++ [.sample i r.1] ∧
    (s.dir.getLsbD i = true ∨ outputEnableN s.q = true →
      r.1 = p.lineBit s.draws ∧ r.2.draws = s.draws + 1) ∧
    (s.dir.getLsbD i = false → outputEnableN s.q = false → s.faulty = true →
      r.1 = p.lineBit s.draws ∧ r.2.draws = s.draws + 1) ∧
    (s.dir.getLsbD i = false → outputEnableN s.q = false → s.faulty = false →
      (s.busy = true → s.overlapped = false → chipAddress p s.q = s.pendAddr → i = 7 →
        r.1 = (!s.pendVal.getLsbD 7) ∧ r.2.draws = s.draws) ∧
      (s.busy = true → (s.overlapped = true ∨ chipAddress p s.q ≠ s.pendAddr ∨ i ≠ 7) →
        r.1 = p.lineBit s.draws ∧ r.2.draws = s.draws + 1) ∧
      (s.busy = false →
        r.1 = (s.cell p (chipAddress p s.q)).getLsbD i ∧ r.2.draws = s.draws))

/-- R55: while the controller waits, a write cycle in progress comes nearer to its end, and at its
end the pending cell takes the pending value and the chip is no longer busy; a cycle that never
finishes stays. The count is the model's form of the environment's choice (log entry 10). -/
def Obligations.IdleStepAdvancesCycle : Prop :=
  ∀ s : State, s.phase = .idle → s.latchPort = none → s.pending = [] → s.busy = true →
    s.overlapped = false → Memory.wf Config.hardware s.mem →
    (s.cycleLeft = none → step s = .next s) ∧
    (∀ n, s.cycleLeft = some (n + 1) → step s = .next { s with cycleLeft := some n }) ∧
    (s.cycleLeft = some 0 → ∃ t, step s = .next t ∧
      t = { s with mem := t.mem, busy := false, cycleLeft := none } ∧
      t.cell Config.hardware s.pendAddr = s.pendVal ∧
      ∀ x : CellAddress, x ≠ s.pendAddr →
        t.cell Config.hardware x = s.cell Config.hardware x)

/-- R56: a write-enable pulse at whose end the chip is still busy, since its write cycle outlasts the
three events of the pulse, makes the pending cell, the new cell and the new write's completion draws, and
changes no other cell; a cycle that ends within the pulse stores its value where it is no overlapped one,
and the new write is a clean one. The form, and that BUSY counts at WE_HIGH, are the model's (log entry
12). -/
def Obligations.OverlappedWriteIsDrawn : Prop :=
  ∀ (p : Params) (s : State), s.phase = .wrPulse → s.busy = true → Memory.wf p s.mem →
    let t := phaseStep p s
    t.busy = true ∧ t.pendAddr = chipAddress p s.q ∧ t.pendVal = s.dout ∧
    (∀ x : CellAddress, x ≠ chipAddress p s.q → x ≠ s.pendAddr → t.cell p x = s.cell p x) ∧
    ((∀ n, s.cycleLeft = some n → 3 ≤ n) →
      t.cell p (chipAddress p s.q) = p.cellByte (s.draws + 1) ∧
      (s.pendAddr ≠ chipAddress p s.q → t.cell p s.pendAddr = p.cellByte s.draws) ∧
      t.cycleLeft = p.cycleEvents (s.draws + 2) ∧ t.draws = s.draws + 3 ∧ t.overlapped = true) ∧
    (∀ n, s.cycleLeft = some n → n < 3 →
      (s.overlapped = false → t.cell p s.pendAddr = s.pendVal) ∧
      t.cycleLeft = p.cycleEvents s.draws ∧ t.draws = s.draws + 1 ∧ t.overlapped = false)

/-! ## READ -/

/-- READ(a) on a sound chip that is not busy completes and returns MEM[a]: its trace is R125's, the
state after it is R127's, and nothing else changes. -/
def Obligations.ReadOnIdleChip : Prop :=
  ∀ (a : Address) (s : State), s.phase = .idle → inRange Config.hardware a → s.busy = false →
    s.faulty = false →
    exec (.read a) s = .next { s with
      sr := a
      q := a
      dir := 0x00#8
      ser := a.getLsbD 0
      srclk := false
      rclk := false
      opAddr := a
      trace := s.trace ++ [.dirIn, .latch a] ++
        linesDown.map (fun i => .sample i ((s.cell Config.hardware (a.setWidth 15)).getLsbD i))
      results := s.results ++ [.okByte (s.cell Config.hardware (a.setWidth 15))] }

/-- READ(a) completes on every chip, busy or not, sound or not: the registers are as R127 says, the
trace has the shape R125 says with the bits of the byte returned, and no cell changes but the one whose
write the chip may finish meanwhile. From a disconnected or faulty chip all 8 bits are draws (R126), in
the form of log entries 11 and 26. -/
def Obligations.ReadCompletes : Prop :=
  ∀ (a : Address) (s : State), s.phase = .idle → inRange Config.hardware a →
    Memory.wf Config.hardware s.mem →
    ∃ (t : State) (b : Byte), exec (.read a) s = .next t ∧
      t = { s with
        sr := a
        q := a
        dir := 0x00#8
        ser := a.getLsbD 0
        srclk := false
        rclk := false
        opAddr := a
        trace := s.trace ++ readEvents a b
        results := s.results ++ [.okByte b]
        mem := t.mem
        busy := t.busy
        cycleLeft := t.cycleLeft
        overlapped := t.overlapped
        draws := t.draws } ∧
      (s.faulty = true → t.draws = s.draws + 8 ∧
        ∀ i, i < 8 → b.getLsbD i = Config.hardware.lineBit (s.draws + (7 - i))) ∧
      ∀ x : CellAddress, x ≠ s.pendAddr → t.cell Config.hardware x = s.cell Config.hardware x

/-- READ on a sound chip whose write cycle outlasts the READ's ten events: of the address whose write is
in progress, D7 is the complement of the written bit and the other seven bits are draws; of another
address, all 8 bits are draws (R126). MEM is unchanged. The draws are indexed by the model's counter (log entry 11). -/
def Obligations.ReadWhileBusy : Prop :=
  ∀ (a : Address) (s : State), s.phase = .idle → inRange Config.hardware a → s.busy = true →
    s.overlapped = false → s.faulty = false → (∀ n, s.cycleLeft = some n → 10 ≤ n) →
    ∃ t b, exec (.read a) s = .next t ∧ t.results = s.results ++ [.okByte b] ∧ t.mem = s.mem ∧
      (s.pendAddr = a.setWidth 15 →
        b.getLsbD 7 = (!s.pendVal.getLsbD 7) ∧ t.draws = s.draws + 7 ∧
        ∀ i, i < 7 → b.getLsbD i = Config.hardware.lineBit (s.draws + (6 - i))) ∧
      (s.pendAddr ≠ a.setWidth 15 →
        t.draws = s.draws + 8 ∧
        ∀ i, i < 8 → b.getLsbD i = Config.hardware.lineBit (s.draws + (7 - i)))

/-- R205: at an address of [2048, 65535] READ and WRITE raise InvalidAddress before any bus event,
with the address as its info; only ERRLOG changes, and the host receives Err. At an address of [0,
2047] neither raises it. -/
def Obligations.InvalidAddressRaised : Prop :=
  ∀ (a : Address) (v : Byte) (s : State), s.phase = .idle →
    (2048 ≤ a.toNat →
      exec (.read a) s = .next { s with
        errlog := s.errlog ++
          [{ code := .invalidAddress, command := commandWord 1#4 a 0#8, info := .address a }]
        results := s.results ++ [.err .invalidAddress (.address a)] } ∧
      exec (.write a v) s = .next { s with
        errlog := s.errlog ++
          [{ code := .invalidAddress, command := commandWord 2#4 a v, info := .address a }]
        results := s.results ++ [.err .invalidAddress (.address a)] }) ∧
    (a.toNat ≤ 2047 →
      (∃ t, exec (.read a) s = .next t ∧ t.errlog = s.errlog) ∧
      (∃ t es, exec (.write a v) s = .next t ∧ t.errlog = s.errlog ++ es ∧
        ∀ e ∈ es, e.code ≠ .invalidAddress))

/-! ## WRITE and WRITE_COMMIT -/

/-- WRITE(a, v) on a sound chip that is not busy completes, and what it leaves is `afterWrite`: Ok with
MEM[a] = v where the chip finishes within the poll bound, WriteTimeout with MEM[a] unspecified (R147, in
the form of log entry 25) where it does not, each with
the trace of R128 and R146; in the unbounded loop on a chip that never finishes it is still in
flight (R144). The number of busy samples follows from the model's count of events (log entry 10),
and a loop without end goes on over the machine's steps (log entry 9). -/
def Obligations.WriteOnIdleChip : Prop :=
  ∀ (a : Address) (v : Byte) (s : State), s.phase = .idle → inRange Config.hardware a →
    s.busy = false → s.faulty = false → Memory.wf Config.hardware s.mem →
    exec (.write a v) s = .next (afterWrite Config.hardware a v s)

/-- R146, first case, at any configuration: a sound chip that presents the busy complement for k samples,
fewer than POLL_MAX, makes WRITE return Ok after k + 1 samples and k waits. k follows from the
model's count of events (log entry 10). -/
def Obligations.PollsUntilMatch : Prop :=
  ∀ (p : Params) (a : Address) (v : Byte) (s : State) (d : Nat),
    s.phase = .idle → inRange p a → s.busy = false → s.faulty = false → Memory.wf p s.mem →
    p.cycleEvents s.draws = some d →
    (∀ m, p.pollMax = some m → busySamples d < m) →
    let t := writeCommand p a v s
    t.results = s.results ++ [.okUnit] ∧ t.errlog = s.errlog ∧ t.polls = busySamples d + 1 ∧
    t.busy = false ∧ t.mem = Memory.write p.initialByte s.mem a.toNat v ∧
    t.trace = s.trace ++ writeEvents a v ++ busyPolls v (busySamples d) ++
      [.sample 7 (v.getLsbD 7)]

/-- R204: WriteTimeout is raised after POLL_MAX samples that all mismatched, with (a, v, POLL_MAX)
as its info and no wait after the last sample, at any configuration with a bound. The chip is a sound
one that was not busy before and outlasts the samples, by the model's count of events (log entry 10).
MEM[a] is then unspecified (R147): a draw, in the form of log entry 25. -/
def Obligations.TimeoutAtThePollBound : Prop :=
  ∀ (p : Params) (a : Address) (v : Byte) (s : State) (m : Nat),
    s.phase = .idle → inRange p a → s.busy = false → s.faulty = false → Memory.wf p s.mem →
    p.pollMax = some m →
    (∀ d, p.cycleEvents s.draws = some d → m ≤ busySamples d) →
    let t := writeCommand p a v s
    t.results = s.results ++ [.err .writeTimeout (.timeout a v m)] ∧
    t.errlog = s.errlog ++
      [{ code := .writeTimeout, command := commandWord 2#4 a v, info := .timeout a v m }] ∧
    t.polls = m ∧ t.busy = true ∧ t.pendAddr = a.setWidth 15 ∧ t.pendVal = v ∧
    t.cell p (a.setWidth 15) = p.cellByte (s.draws + 1) ∧
    (∀ x : CellAddress, x ≠ a.setWidth 15 → t.cell p x = s.cell p x) ∧
    t.dir = 0x00#8 ∧ t.sr = a ∧ t.q = a ∧ t.weN = true ∧ t.dout = v ∧ t.phase = .idle ∧
    t.trace = s.trace ++ writeEvents a v ++ busyPolls v (m - 1) ++
      [.sample 7 (!v.getLsbD 7)]

/-- WRITE(a, v) completes on every chip, busy or not, sound or not, and ends in one of three ways: Ok;
WriteTimeout after POLL_MAX samples; or, in the unbounded loop only, still in flight at WC_SAMPLE (R144). In each, the
bus is as R132 says, no cell changed but a and the one whose write was in progress before, and every
register it does not write is as before. -/
def Obligations.WriteCompletes : Prop :=
  ∀ (a : Address) (v : Byte) (s : State), s.phase = .idle → inRange Config.hardware a →
    Memory.wf Config.hardware s.mem →
    ∃ t : State, exec (.write a v) s = .next t ∧
      t.sr = a ∧ t.q = a ∧ t.dir = 0x00#8 ∧ t.dout = v ∧ t.weN = true ∧ t.ser = a.getLsbD 0 ∧
      t.srclk = false ∧ t.rclk = false ∧ t.opAddr = a ∧ t.opVal = v ∧
      t.pendAddr = a.setWidth 15 ∧ t.pendVal = v ∧ t.faulty = s.faulty ∧
      t.pending = s.pending ∧ t.latchPort = s.latchPort ∧
      (t.phase = .idle ∧ t.errlog = s.errlog ∧ t.results = s.results ++ [.okUnit] ∨
        (∃ m, Config.hardware.pollMax = some m ∧ t.phase = .idle ∧ t.polls = m ∧
          t.errlog = s.errlog ++
            [{ code := .writeTimeout, command := commandWord 2#4 a v, info := .timeout a v m }] ∧
          t.results = s.results ++ [.err .writeTimeout (.timeout a v m)]) ∨
        Config.hardware.pollMax = none ∧ t.phase = .wcSample ∧ t.errlog = s.errlog ∧
          t.results = s.results) ∧
      ∀ x : CellAddress, x ≠ a.setWidth 15 → x ≠ s.pendAddr →
        t.cell Config.hardware x = s.cell Config.hardware x

/-- R133: a WRITE that returned Ok on a sound chip that was not busy before it, followed by a READ of
the same address, returns the value written, at any configuration. A WRITE begun on a busy chip, whose
outcome R59 (b) and R149 leave open, is left out by the premise, and so is one begun on a busy chip that
finishes before the pulse. -/
def Obligations.WriteThenReadReturnsValue : Prop :=
  ∀ (p : Params) (a : Address) (v : Byte) (s : State),
    s.phase = .idle → inRange p a → s.busy = false → s.faulty = false → Memory.wf p s.mem →
    (writeCommand p a v s).results = s.results ++ [.okUnit] →
    (writeCommand p a v s).cell p (a.setWidth 15) = v ∧
    (writeCommand p a v s).busy = false ∧
    (readCommand p a (writeCommand p a v s)).results = s.results ++ [.okUnit, .okByte v]

/-- R144: in the unbounded loop on a chip that never finishes, the controller goes round WC_SAMPLE
and WC_WAIT for ever: no number of phase steps ends the command, answers the host, or touches the
host's words and the latch port. A step of the machine in flight is a phase step
(CommandInFlightRefused). The form of the never-ending chip is log entry 10's choice, of the running
loop log entry 9's. -/
def Obligations.UnboundedLoopHangs : Prop :=
  ∀ (p : Params) (s : State), p.pollMax = none → s.phase = .wcSample → s.busy = true →
    s.cycleLeft = none → s.overlapped = false → s.faulty = false → s.dir = 0x00#8 →
    outputEnableN s.q = false → chipAddress p s.q = s.pendAddr → s.pendVal = s.opVal →
    ∀ n, (runPhases p (2 * n) s).phase = .wcSample ∧ (runPhases p (2 * n) s).polls = s.polls + n ∧
      (runPhases p (2 * n + 1) s).phase = .wcWait ∧ (runPhases p n s).results = s.results ∧
      (runPhases p n s).pending = s.pending ∧ (runPhases p n s).latchPort = s.latchPort

/-- Around the write-enable pulse Q, DOUT and DIR do not change: WE_N is 0 after WE_LOW and over the
wait, and 1 after WE_HIGH (R130, R231). -/
def Obligations.PulseHoldsTheBus : Prop :=
  ∀ (p : Params) (s : State), s.phase = .wrPulse →
    (weLow p s).weN = false ∧ (waitWp p (weLow p s)).weN = false ∧ (phaseStep p s).weN = true ∧
    (weLow p s).q = s.q ∧ (waitWp p (weLow p s)).q = s.q ∧ (phaseStep p s).q = s.q ∧
    (weLow p s).dout = s.dout ∧ (waitWp p (weLow p s)).dout = s.dout ∧ (phaseStep p s).dout = s.dout ∧
    (phaseStep p s).dir = s.dir ∧
    (phaseStep p s).trace = s.trace ++ [.weLow, .waitWp, .weHigh]

/-- The least time the events of a WRITE take, on every chip and at any configuration: one T_WP for the
pulse, and one T_POLL between any two of its samples; in a loop still running one T_POLL after the last
too (R234, R235, R239). It takes at least one sample, and never more than POLL_MAX (R143). That the other
events count as 0 is log entry 20's reading of R236. -/
def Obligations.WaitsTakeTheirMinimum : Prop :=
  ∀ (p : Params) (a : Address) (v : Byte) (s : State), s.phase = .idle → inRange p a →
    let t := writeCommand p a v s
    1 ≤ t.polls ∧ (∀ m, p.pollMax = some m → t.polls ≤ m) ∧
    ∃ es : List Event, t.trace = s.trace ++ es ∧
      (t.phase = .idle → traceAtLeast p es = p.tWp + (t.polls - 1) * p.tPoll) ∧
      (t.phase ≠ .idle → traceAtLeast p es = p.tWp + t.polls * p.tPoll)

/-! ## GEN_DISPLAY -/

/-- R160: GEN_DISPLAY completes, returns the image to the host, and changes no other state. -/
def Obligations.GenDisplayReturnsImage : Prop :=
  ∀ s : State, s.phase = .idle →
    exec .genDisplay s = .next { s with
      results := s.results ++ [.okImage (displayImage Config.hardware)] } ∧
    (displayImage Config.hardware).length = 2048 ∧
    ∀ a : BitVec 11, (displayImage Config.hardware)[a.toNat]? =
      some (displayByte Config.hardware a)

/-- R158: the four bytes of a value u of the unsigned region, at the addresses of F-DISP (R86). -/
def Obligations.DisplayUnsignedRegion : Prop :=
  ∀ (p : Params) (u : Byte),
    displayByte p (0#1 ++ 0#2 ++ u) = digitDecode p (u.toNat % 10) ∧
    displayByte p (0#1 ++ 1#2 ++ u) = digitDecode p (u.toNat / 10 % 10) ∧
    displayByte p (0#1 ++ 2#2 ++ u) = digitDecode p (u.toNat / 100) ∧
    displayByte p (0#1 ++ 3#2 ++ u) = 0x00#8 ∧
    u.toNat = 100 * (u.toNat / 100) + 10 * (u.toNat / 10 % 10) + u.toNat % 10

/-- R159: the four bytes of a value s of the signed region: the digits of m = |s|, and the sign. -/
def Obligations.DisplaySignedRegion : Prop :=
  ∀ (p : Params) (b : Byte),
    let m := b.toInt.natAbs
    displayByte p (1#1 ++ 0#2 ++ b) = digitDecode p (m % 10) ∧
    displayByte p (1#1 ++ 1#2 ++ b) = digitDecode p (m / 10 % 10) ∧
    displayByte p (1#1 ++ 2#2 ++ b) = digitDecode p (m / 100) ∧
    displayByte p (1#1 ++ 3#2 ++ b) = (if b.toInt < 0 then 0x01#8 else 0x00#8) ∧
    m ≤ 128 ∧ m = 100 * (m / 100) + 10 * (m / 10 % 10) + m % 10

/-- GEN_DISPLAY looks up only the entries 0 to 9: two configurations that agree on those entries of
the active variant have one image (R157, R164). -/
def Obligations.DisplayUsesTenDigits : Prop :=
  ∀ p p' : Params, (∀ n, n < 10 → digitDecode p n = digitDecode p' n) →
    displayImage p = displayImage p'

/-! ## GEN_MICROCODE -/

/-- R184: GEN_MICROCODE completes, returns the image of the configured table, and changes no other
state. -/
def Obligations.GenMicrocodeReturnsImage : Prop :=
  ∀ s : State, s.phase = .idle →
    exec .genMicrocode s = .next { s with
      results := s.results ++ [.okImage (configuredMicroImage Config.hardware)] } ∧
    (configuredMicroImage Config.hardware).length = 1024 ∧
    ∀ a : BitVec 10, (configuredMicroImage Config.hardware)[a.toNat]? =
      some (microByte Config.hardware (baseTable Config.hardware Config.hardware.micro) a)

/-- The configured table is admitted, and so is the table of every microprogram whose reserved
opcodes leave out JC and JZ (R180), at any positions of the control lines. That the configuration is
admitted by construction is the model's (log entry 3). -/
def Obligations.ConfiguredTableAdmitted : Prop :=
  BaseTable.Admitted Config.hardware (baseTable Config.hardware Config.hardware.micro)
    Config.hardware.micro.nopOpcode Config.hardware.micro.reservedOpcodes ∧
  ∀ (p : Params) (m : Microprogram),
    opcodeJC ∉ m.reservedOpcodes → opcodeJZ ∉ m.reservedOpcodes →
    BaseTable.Admitted p (baseTable p m) m.nopOpcode m.reservedOpcodes

/-- Every admitted table is the table of a microprogram, so the free configuration leaves none out;
and a table that is not admitted gives no image (R180, R208). -/
def Obligations.AdmittedTablesRepresented : Prop :=
  ∀ (p : Params) (t : BaseTable) (nop : Opcode) (reserved : List Opcode),
    (BaseTable.Admitted p t nop reserved →
      ∃ m, microprogramOf? p t nop reserved = some m ∧ baseTable p m = t ∧ m.nopOpcode = nop ∧
        m.reservedOpcodes = reserved ∧ microImage? p t nop reserved = some (microImage p t)) ∧
    (¬ BaseTable.Admitted p t nop reserved → microImage? p t nop reserved = none)

/-- The spec's refusal vectors: JC with a step, a gap between active steps, a wrong fetch word
(R180). -/
def Obligations.BrokenTablesRefused : Prop :=
  ∀ (p : Params) (t : BaseTable) (nop : Opcode) (reserved : List Opcode),
    (t 7#4 3#3 = 0x0001#16 → microImage? p t nop reserved = none) ∧
    (t 1#4 2#3 = 0x0000#16 → t 1#4 3#3 = 0x1200#16 → microImage? p t nop reserved = none) ∧
    (t 4#4 0#3 = 0x0000#16 → microImage? p t nop reserved = none)

/-- R188 and R190: the image bytes that are fixed for every admitted table, at R88's positions of the
control lines. -/
def Obligations.FixedMicrocodeBytes : Prop :=
  ∀ (t : BaseTable) (nop : Opcode) (reserved : List Opcode),
    BaseTable.Admitted Config.hardware t nop reserved →
    let byte := microByte Config.hardware t
    (∀ (f : FlagState) (o : Opcode),
      byte (ucodeAddress f false o 0#3) = 0x04#8 ∧
      byte (ucodeAddress f true o 0#3) = 0x40#8 ∧
      byte (ucodeAddress f false o 1#3) = 0x08#8 ∧
      byte (ucodeAddress f true o 1#3) = 0x14#8 ∧
      byte (ucodeAddress f false o 7#3) = 0x00#8 ∧
      byte (ucodeAddress f true o 7#3) = 0x00#8) ∧
    (∀ (f : FlagState) (bs : Bool) (st : MicroStep), 3#3 ≤ st →
      byte (ucodeAddress f bs opcodeJC st) = 0x00#8 ∧
      byte (ucodeAddress f bs opcodeJZ st) = 0x00#8) ∧
    byte 0x03A#10 = 0x00#8 ∧ byte 0x0BA#10 = 0x00#8 ∧
    byte 0x13A#10 = 0x02#8 ∧ byte 0x1BA#10 = 0x08#8 ∧
    byte 0x23A#10 = 0x00#8 ∧ byte 0x2BA#10 = 0x00#8 ∧
    byte 0x33A#10 = 0x02#8 ∧ byte 0x3BA#10 = 0x08#8 ∧
    byte 0x042#10 = 0x00#8 ∧ byte 0x0C2#10 = 0x00#8 ∧
    byte 0x142#10 = 0x00#8 ∧ byte 0x1C2#10 = 0x00#8 ∧
    byte 0x242#10 = 0x02#8 ∧ byte 0x2C2#10 = 0x08#8 ∧
    byte 0x342#10 = 0x02#8 ∧ byte 0x3C2#10 = 0x08#8

/-- R186: the two bytes of a control word recombine to it, for every flagState, opcode and step of
any table. -/
def Obligations.ControlWordRecombines : Prop :=
  ∀ (p : Params) (t : BaseTable) (f : FlagState) (o : Opcode) (s : MicroStep),
    microByte p t (ucodeAddress f true o s) ++ microByte p t (ucodeAddress f false o s) =
      ucode p t f o s ∧
    (ucodeAddress f true o s).toNat = f.toNat * 256 + 128 + o.toNat * 8 + s.toNat ∧
    (ucodeAddress f false o s).toNat = f.toNat * 256 + o.toNat * 8 + s.toNat

/-- R182: the four variants of an admitted table differ from BASE exactly at the override slots, JC
where Carry is set and JZ where Zero is set. -/
def Obligations.VariantsDifferAtOverrides : Prop :=
  ∀ (p : Params) (t : BaseTable) (nop : Opcode) (reserved : List Opcode),
    BaseTable.Admitted p t nop reserved →
    ∀ (zero carry : Bool) (o : Opcode) (s : MicroStep),
      (ucode p t (flagIndex zero carry) o s ≠ t o s ↔
        s = 2#3 ∧ (o = 7#4 ∧ carry = true ∨ o = 8#4 ∧ zero = true)) ∧
      (ucode p t (flagIndex zero carry) o s ≠ t o s →
        ucode p t (flagIndex zero carry) o s = jumpWord p ∧ t o s = 0x0000#16)

/-- The union of control lines holds exactly the lines it was made of, at any positions of the lines
(R88, R175). -/
def Obligations.ControlLinesUnion : Prop :=
  ∀ (p : Params) (ls : List ControlLine) (l : ControlLine),
    hasLine p (controlWord p ls) l = true ↔ l ∈ ls

/-- R176: the values of the three control words the generator uses, at R88's positions. -/
def Obligations.ControlWordValues : Prop :=
  fetch0 Config.hardware = 0x4004#16 ∧ fetch1 Config.hardware = 0x1408#16 ∧
  jumpWord Config.hardware = 0x0802#16

/-! ## Invariants and whole-machine rules -/

/-- After boot the machine is in a safe state. That PEND_ADDR, to which R38 gives no value, is the
address of a cell (PendingInRange) rests on log entry 6's choice of 0; it rests on no other value of that
entry. The model's own fields are log entry 7's choice. -/
def Obligations.ResetIsSafe : Prop := SafeState Config.hardware State.reset

/-- The values that R38 gives the machine after boot, in the state after reset. -/
def Obligations.ResetValues : Prop :=
  State.reset.dir = 0x00#8 ∧ State.reset.weN = true ∧ State.reset.ser = false ∧
  State.reset.srclk = false ∧ State.reset.rclk = false ∧ State.reset.phase = .idle ∧
  State.reset.errlog = [] ∧ State.reset.busy = false

/-- R227: boot, from whatever the machine holds at power-on, drives WE_N high and keeps it so, sets
the serial lines low and the data lines to inputs, leaves the controller IDLE with an empty log, and
latches no address; MEM is unchanged (R226). -/
def Obligations.BootFromPowerOn : Prop :=
  ∀ s : State,
    boot s = { s with
      weN := true, ser := false, srclk := false, rclk := false, dir := 0x00#8, phase := .idle,
      errlog := [] } ∧
    (bootWriteEnable s).weN = true ∧ (bootClocks (bootWriteEnable s)).weN = true ∧
    (bootData (bootClocks (bootWriteEnable s))).weN = true

/-- Every step from a safe state that answers a next state answers a safe state: the memory keeps
its canonical form, the lines their idle levels, and the bus the orders of R230 and R231. -/
def Obligations.StepKeepsSafe : Prop :=
  ∀ s t : State, SafeState Config.hardware s → step s = .next t → SafeState Config.hardware t

/-- The same for each phase inside a command, at any configuration. -/
def Obligations.PhaseStepKeepsSafe : Prop :=
  ∀ (p : Params) (s : State), SafeState p s → SafeState p (phaseStep p s)

/-- A safe state has one direction on all data lines and no bus contention (R25, R230). -/
def Obligations.SafeMeansNoContention : Prop :=
  ∀ (p : Params) (s : State), SafeState p s → DirUniform s ∧ NoContention s

/-- R230: DIR = 0xFF implies that OE_N is not asserted, and DIR is 0x00 or 0xFF (R25), in every state
that any number of phases reaches from a safe state, and so in every state a run reaches, inside its
commands too; and the pairs (DIR, OE_N) along a WRITE and a READ are those R230 lists. -/
def Obligations.ReachableNoContention : Prop :=
  (∀ (p : Params) (s : State) (n : Nat), SafeState p s →
    DirUniform (runPhases p n s) ∧ NoContention (runPhases p n s)) ∧
  (∀ s : State, Reachable s → DirUniform s ∧ NoContention s ∧ s.weN = true) ∧
  ∀ (p : Params) (a : Address) (v : Byte) (s : State),
    SafeState p s → s.phase = .idle → inRange p a →
    busPair (runPhases p 1 (startWrite a v s)) = (0x00#8, true) ∧
    busPair (runPhases p 2 (startWrite a v s)) = (0xFF#8, true) ∧
    busPair (runPhases p 3 (startWrite a v s)) = (0xFF#8, true) ∧
    busPair (runPhases p 4 (startWrite a v s)) = (0xFF#8, true) ∧
    busPair (runPhases p 5 (startWrite a v s)) = (0x00#8, true) ∧
    busPair (runPhases p 6 (startWrite a v s)) = (0x00#8, false) ∧
    (runPhases p 1 (startRead a s)).dir = 0x00#8 ∧
    busPair (runPhases p 2 (startRead a s)) = (0x00#8, false) ∧
    busPair (runPhases p 3 (startRead a s)) = (0x00#8, false)

/-- ERRLOG only grows, by at most one entry a step, and never by a BusFault (R203, R207, R209). -/
def Obligations.ErrlogOnlyGrows : Prop :=
  ∀ s t : State, step s = .next t →
    ∃ es : List ErrEntry, t.errlog = s.errlog ++ es ∧ es.length ≤ 1 ∧
      ∀ e ∈ es, e.code ≠ .busFault

/-- A step removes no bus event and no result: both lists only grow, and a step answers the host at
most once. That they go on over the run is the model's choice (log entry 18). -/
def Obligations.TraceOnlyGrows : Prop :=
  ∀ s t : State, step s = .next t →
    (∃ es : List Event, t.trace = s.trace ++ es) ∧
    ∃ rs : List Result, t.results = s.results ++ rs ∧ rs.length ≤ 1

/-- Only a WRITE changes MEM: a cell that a step from a safe state changes is the one whose write
was in progress before the step, or the one of a write that the step itself started, by a WE_HIGH among
its events (R226). -/
def Obligations.OnlyPendingCellsChange : Prop :=
  ∀ s t : State, SafeState Config.hardware s → step s = .next t →
    ∀ x : CellAddress, t.cell Config.hardware x ≠ s.cell Config.hardware x →
      (s.busy = true ∧ x = s.pendAddr) ∨
      (x = t.pendAddr ∧ ∃ es : List Event, t.trace = s.trace ++ es ∧ .weHigh ∈ es)

/-- R30: each phase goes to the next in the order listed; WC_SAMPLE goes to IDLE or WC_WAIT, and
WC_WAIT back to WC_SAMPLE. -/
def Obligations.PhasesInOrder : Prop :=
  ∀ (p : Params) (s : State),
    match s.phase, (phaseStep p s).phase with
    | .idle, t => t = .idle
    | .rdDir, t => t = .rdLatch
    | .rdLatch, t => t = .rdSample
    | .rdSample, t => t = .idle
    | .wrLatch, t => t = .wrDir
    | .wrDir, t => t = .wrDrive
    | .wrDrive, t => t = .wrPulse
    | .wrPulse, t => t = .wcDir
    | .wcDir, t => t = .wcLatch
    | .wcLatch, t => t = .wcSample
    | .wcSample, t => t = .idle ∨ t = .wcWait
    | .wcWait, t => t = .wcSample

/-- Two memories in canonical form that read alike at every address are equal. The form and what an
unlisted address reads as are the model's (log entry 5). -/
def Obligations.CanonicalMemory : Prop :=
  ∀ (p : Params) (m m' : Memory), Memory.wf p m → Memory.wf p m' →
    (∀ a, Memory.read p.initialByte m a = Memory.read p.initialByte m' a) → m = m'

/-- R202: the result word holds the code in bits 31:28 and, for READ with Ok only, the byte in bits
7:0; every other bit is 0. -/
def Obligations.ResultWords : Prop :=
  (∀ b : Byte, (Result.okByte b).word = b.setWidth 32) ∧
  Result.okUnit.word = 0#32 ∧ (∀ img, (Result.okImage img).word = 0#32) ∧
  (∀ i, (Result.err .invalidAddress i).word = 0x10000000#32) ∧
  (∀ i, (Result.err .writeTimeout i).word = 0x20000000#32) ∧
  (∀ i, (Result.err .busFault i).word = 0x30000000#32) ∧
  (∀ i, (Result.err .illegalCommand i).word = 0x40000000#32)

/-! ## Pseudo-operations -/

/-- R105: BURN of an image, on any chip and however often it is resumed, issues its WRITEs in rising order:
those below some k have returned Ok, and nothing is issued beyond k. Either k is the image's length; or the
WRITE to k raised WriteTimeout, which ends the sequence; or, in the unbounded loop, the WRITE to k has not
returned and the WRITEs after it remain. On a sound chip that was not busy every address below k holds its
byte, and no address above k, nor beyond the image, changes. Resuming a sequence is one step of the machine;
when the command returns with it, an error drops what remains, and Ok runs it. The form of a sequence under
way is the model's (log entry 22). -/
def Obligations.BurnStoresImage : Prop :=
  (∀ (img : List Byte) (s : State) (n : Nat), s.phase = .idle → img.length ≤ Config.hardware.romSize →
    ∃ (q : Sequence) (k : Nat), thenRun (burn img s) (resumeFor n) = .next q ∧ k ≤ img.length ∧
      (k = img.length ∧ q.rest = [] ∧ q.state.phase = .idle ∧ q.state.errlog = s.errlog ∧
          q.state.results = s.results ++ List.replicate k .okUnit ∨
        (∃ v m, img[k]? = some v ∧ Config.hardware.pollMax = some m ∧ q.rest = [] ∧
          q.state.phase = .idle ∧
          q.state.errlog = s.errlog ++
            [{ code := .writeTimeout, command := commandWord 2#4 (BitVec.ofNat 16 k) v,
               info := .timeout (BitVec.ofNat 16 k) v m }] ∧
          q.state.results = s.results ++ List.replicate k .okUnit ++
            [.err .writeTimeout (.timeout (BitVec.ofNat 16 k) v m)]) ∨
        (k < img.length ∧ Config.hardware.pollMax = none ∧
          q.rest = (burnCommands img).drop (k + 1) ∧
          (q.state.phase = .wcSample ∨ q.state.phase = .wcWait) ∧
          q.state.opAddr = BitVec.ofNat 16 k ∧ img[k]? = some q.state.opVal ∧
          q.state.errlog = s.errlog ∧ q.state.results = s.results ++ List.replicate k .okUnit)) ∧
      (s.busy = false → s.faulty = false → Memory.wf Config.hardware s.mem →
        (∀ x : CellAddress, x.toNat < k →
          some (q.state.cell Config.hardware x) = img[x.toNat]?) ∧
        (∀ x : CellAddress, k < x.toNat ∨ img.length ≤ x.toNat →
          q.state.cell Config.hardware x = s.cell Config.hardware x))) ∧
  ∀ (q : Sequence) (t : State), q.state.phase ≠ .idle → step q.state = .next t →
    (t.phase ≠ .idle → resume q = .next { rest := q.rest, state := t }) ∧
    (t.phase = .idle → lastIsErr t = true → resume q = .next { rest := [], state := t }) ∧
    (t.phase = .idle → lastIsErr t = false → resume q = runUntilError q.rest t)

/-- R101, R102 and R105: BURN_MICROCODE and BURN_DISPLAY are BURN of the image their generator
returns, and BURN_MICROCODE, on a chip that is not busy, sound or not, changes no address from 1024 on,
whatever its end and however often it is resumed. -/
def Obligations.BurnGeneratedImages : Prop :=
  ∀ s : State, s.phase = .idle →
    burnMicrocode s =
      burn (configuredMicroImage Config.hardware)
        { s with results := s.results ++ [.okImage (configuredMicroImage Config.hardware)] } ∧
    burnDisplay s =
      burn (displayImage Config.hardware)
        { s with results := s.results ++ [.okImage (displayImage Config.hardware)] } ∧
    (s.busy = false → Memory.wf Config.hardware s.mem →
      ∀ n, ∃ q, thenRun (burnMicrocode s) (resumeFor n) = .next q ∧
        ∀ x : CellAddress, 1024 ≤ x.toNat →
          q.state.cell Config.hardware x = s.cell Config.hardware x)

/-- R103: ERASE is BURN of an image of ROM_SIZE bytes 0xFF, at any ROM_SIZE. -/
def Obligations.EraseIsBurnOfOnes : Prop :=
  ∀ p : Params, eraseCommands p = burnCommands (List.replicate p.romSize 0xFF#8)

/-- R104: DUMP of n addresses from base, on a sound chip that is not busy, returns their bytes in rising
order, one READ's result for each, and changes neither MEM nor ERRLOG. -/
def Obligations.DumpReturnsBytes : Prop :=
  ∀ (base : Address) (n : Nat) (s : State), s.phase = .idle → s.busy = false → s.faulty = false →
    base.toNat + n ≤ Config.hardware.romSize →
    let bytes := (List.range n).map fun i =>
      s.cell Config.hardware (BitVec.ofNat 15 (base.toNat + i))
    ∃ t, dump base n s = .next { rest := [], state := t } ∧ t.results = s.results ++ bytes.map .okByte ∧
      bytesRead (t.results.drop s.results.length) = bytes ∧
      t.mem = s.mem ∧ t.errlog = s.errlog ∧ t.phase = .idle
end

