-- ==== Sys2Proof/Laws/Memory.lean ====
section
/-! SUPPORT. The laws of the memory list: what a read gives after a write, and that a write keeps the
canonical form. -/

namespace Sys2Proof.Machine

variable {init : Nat → Byte} {p : Params}

/-- Every address listed in m is above a. -/
abbrev Memory.above (a : Nat) (m : Memory) : Prop := ∀ x ∈ m, a < x.1

theorem memory_read_of_above {m : Memory} {a : Nat} (h : Memory.above a m) :
    Memory.read init m a = init a := by
  cases m with
  | nil => rfl
  | cons x m =>
    have hx : a < x.1 := h x (by simp)
    simp only [Memory.read]
    rw [if_neg (by omega), if_pos hx]

theorem memory_read_put {m : Memory} {a : Nat} {v : Byte} (h : Memory.above a m) (b : Nat) :
    Memory.read init (Memory.put init a v m) b = if b = a then v else Memory.read init m b := by
  unfold Memory.put
  split
  · rename_i hv
    split
    · subst b; rw [memory_read_of_above h, hv]
    · rfl
  · simp only [Memory.read]
    split
    · rfl
    · split
      · rename_i hba
        exact (memory_read_of_above fun x hx => lt_trans hba (h x hx)).symm
      · rfl

/-- Reading any address after a write: the value written there, and what was read before elsewhere. -/
theorem memory_read_write {m : Memory} (hm : m.Pairwise fun x y => x.1 < y.1) (a : Nat) (v : Byte)
    (b : Nat) :
    Memory.read init (Memory.write init m a v) b = if b = a then v else Memory.read init m b := by
  induction m with
  | nil => exact memory_read_put (by simp) b
  | cons x m ih =>
    obtain ⟨hx, hm'⟩ := List.pairwise_cons.mp hm
    simp only [Memory.write]
    split
    · rename_i h
      refine memory_read_put ?_ b
      intro y hy
      rcases List.mem_cons.mp hy with rfl | hy
      · exact h
      · exact lt_trans h (hx y hy)
    · split
      · rename_i _ h
        subst h
        rw [memory_read_put hx b]
        simp only [Memory.read]
        split
        · rfl
        · split
          · rename_i hb
            exact memory_read_of_above fun y hy => lt_trans hb (hx y hy)
          · rfl
      · rename_i h1 h2
        simp only [Memory.read]
        split
        · rename_i h; subst h; rw [if_neg (Ne.symm h2)]
        · split
          · rw [if_neg (by omega)]
          · exact ih hm'

theorem memory_mem_put {m : Memory} {a : Nat} {v : Byte} {x : Host.Cell}
    (h : x ∈ Memory.put init a v m) : x ∈ m ∨ x = (a, v) ∧ v ≠ init a := by
  unfold Memory.put at h
  split at h
  · exact .inl h
  · rename_i hv
    rcases List.mem_cons.mp h with rfl | h
    · exact .inr ⟨rfl, hv⟩
    · exact .inl h

theorem memory_mem_write {m : Memory} {a : Nat} {v : Byte} {x : Host.Cell}
    (h : x ∈ Memory.write init m a v) : x ∈ m ∨ x = (a, v) ∧ v ≠ init a := by
  induction m with
  | nil => exact memory_mem_put h
  | cons y m ih =>
    simp only [Memory.write] at h
    split at h
    · exact memory_mem_put h
    · split at h
      · exact (memory_mem_put h).imp_left (List.mem_cons_of_mem _)
      · rcases List.mem_cons.mp h with rfl | h
        · exact .inl (by simp)
        · exact (ih h).imp_left (List.mem_cons_of_mem _)

theorem memory_put_sorted {m : Memory} {a : Nat} {v : Byte} (ha : Memory.above a m)
    (hm : m.Pairwise fun x y => x.1 < y.1) :
    (Memory.put init a v m).Pairwise fun x y => x.1 < y.1 := by
  unfold Memory.put
  split
  · exact hm
  · exact List.pairwise_cons.mpr ⟨ha, hm⟩

theorem memory_write_sorted {m : Memory} (hm : m.Pairwise fun x y => x.1 < y.1) (a : Nat)
    (v : Byte) : (Memory.write init m a v).Pairwise fun x y => x.1 < y.1 := by
  induction m with
  | nil => exact memory_put_sorted (by simp) List.Pairwise.nil
  | cons x m ih =>
    obtain ⟨hx, hm'⟩ := List.pairwise_cons.mp hm
    simp only [Memory.write]
    split
    · rename_i h
      refine memory_put_sorted ?_ hm
      intro y hy
      rcases List.mem_cons.mp hy with rfl | hy
      · exact h
      · exact lt_trans h (hx y hy)
    · split
      · rename_i _ h
        subst h
        exact memory_put_sorted hx hm'
      · refine List.pairwise_cons.mpr ⟨?_, ih hm'⟩
        intro y hy
        rcases memory_mem_write hy with hy | ⟨rfl, -⟩
        · exact hx y hy
        · show x.1 < a
          omega

/-- A write inside the address space keeps the canonical form. -/
theorem memory_write_wf {m : Memory} (hm : Memory.wf p m) {a : Nat} (ha : a < p.romSize)
    (v : Byte) : Memory.wf p (Memory.write p.initialByte m a v) := by
  refine ⟨memory_write_sorted hm.1 a v, fun x hx => ?_⟩
  rcases memory_mem_write hx with hx | ⟨rfl, hv⟩
  · exact hm.2 x hx
  · exact ⟨ha, hv⟩

theorem memory_wf_nil : Memory.wf p [] := by simp [Memory.wf]

end Sys2Proof.Machine
end

