-- ==== Sys2Proof/Laws/State.lean ====
section
/-! SUPPORT. What each named update of the state does to each field, once, so that no later proof unfolds
the update. -/

namespace Sys2Proof.Machine

/-! ## emit -/

section
variable (e : Event) (s : State)

@[simp] theorem emit_sr : (emit e s).sr = s.sr := rfl
@[simp] theorem emit_q : (emit e s).q = s.q := rfl
@[simp] theorem emit_dir : (emit e s).dir = s.dir := rfl
@[simp] theorem emit_dout : (emit e s).dout = s.dout := rfl
@[simp] theorem emit_weN : (emit e s).weN = s.weN := rfl
@[simp] theorem emit_ser : (emit e s).ser = s.ser := rfl
@[simp] theorem emit_srclk : (emit e s).srclk = s.srclk := rfl
@[simp] theorem emit_rclk : (emit e s).rclk = s.rclk := rfl
@[simp] theorem emit_phase : (emit e s).phase = s.phase := rfl
@[simp] theorem emit_polls : (emit e s).polls = s.polls := rfl
@[simp] theorem emit_errlog : (emit e s).errlog = s.errlog := rfl
@[simp] theorem emit_mem : (emit e s).mem = s.mem := rfl
@[simp] theorem emit_busy : (emit e s).busy = s.busy := rfl
@[simp] theorem emit_pendAddr : (emit e s).pendAddr = s.pendAddr := rfl
@[simp] theorem emit_pendVal : (emit e s).pendVal = s.pendVal := rfl
@[simp] theorem emit_cycleLeft : (emit e s).cycleLeft = s.cycleLeft := rfl
@[simp] theorem emit_overlapped : (emit e s).overlapped = s.overlapped := rfl
@[simp] theorem emit_faulty : (emit e s).faulty = s.faulty := rfl
@[simp] theorem emit_draws : (emit e s).draws = s.draws := rfl
@[simp] theorem emit_opAddr : (emit e s).opAddr = s.opAddr := rfl
@[simp] theorem emit_opVal : (emit e s).opVal = s.opVal := rfl
@[simp] theorem emit_pending : (emit e s).pending = s.pending := rfl
@[simp] theorem emit_latchPort : (emit e s).latchPort = s.latchPort := rfl
@[simp] theorem emit_trace : (emit e s).trace = s.trace ++ [e] := rfl
@[simp] theorem emit_results : (emit e s).results = s.results := rfl

end

/-! ## answer -/

section
variable (r : Result) (s : State)

@[simp] theorem answer_sr : (answer r s).sr = s.sr := rfl
@[simp] theorem answer_q : (answer r s).q = s.q := rfl
@[simp] theorem answer_dir : (answer r s).dir = s.dir := rfl
@[simp] theorem answer_dout : (answer r s).dout = s.dout := rfl
@[simp] theorem answer_weN : (answer r s).weN = s.weN := rfl
@[simp] theorem answer_ser : (answer r s).ser = s.ser := rfl
@[simp] theorem answer_srclk : (answer r s).srclk = s.srclk := rfl
@[simp] theorem answer_rclk : (answer r s).rclk = s.rclk := rfl
@[simp] theorem answer_phase : (answer r s).phase = .idle := rfl
@[simp] theorem answer_polls : (answer r s).polls = s.polls := rfl
@[simp] theorem answer_errlog : (answer r s).errlog = s.errlog := rfl
@[simp] theorem answer_mem : (answer r s).mem = s.mem := rfl
@[simp] theorem answer_busy : (answer r s).busy = s.busy := rfl
@[simp] theorem answer_pendAddr : (answer r s).pendAddr = s.pendAddr := rfl
@[simp] theorem answer_pendVal : (answer r s).pendVal = s.pendVal := rfl
@[simp] theorem answer_cycleLeft : (answer r s).cycleLeft = s.cycleLeft := rfl
@[simp] theorem answer_overlapped : (answer r s).overlapped = s.overlapped := rfl
@[simp] theorem answer_faulty : (answer r s).faulty = s.faulty := rfl
@[simp] theorem answer_draws : (answer r s).draws = s.draws := rfl
@[simp] theorem answer_opAddr : (answer r s).opAddr = s.opAddr := rfl
@[simp] theorem answer_opVal : (answer r s).opVal = s.opVal := rfl
@[simp] theorem answer_pending : (answer r s).pending = s.pending := rfl
@[simp] theorem answer_latchPort : (answer r s).latchPort = s.latchPort := rfl
@[simp] theorem answer_trace : (answer r s).trace = s.trace := rfl
@[simp] theorem answer_results : (answer r s).results = s.results ++ [r] := rfl

end

/-! ## raise -/

section
variable (c : ErrCode) (w : CommandWord) (i : ErrInfo) (s : State)

@[simp] theorem raise_sr : (raise c w i s).sr = s.sr := rfl
@[simp] theorem raise_q : (raise c w i s).q = s.q := rfl
@[simp] theorem raise_dir : (raise c w i s).dir = s.dir := rfl
@[simp] theorem raise_dout : (raise c w i s).dout = s.dout := rfl
@[simp] theorem raise_weN : (raise c w i s).weN = s.weN := rfl
@[simp] theorem raise_ser : (raise c w i s).ser = s.ser := rfl
@[simp] theorem raise_srclk : (raise c w i s).srclk = s.srclk := rfl
@[simp] theorem raise_rclk : (raise c w i s).rclk = s.rclk := rfl
@[simp] theorem raise_phase : (raise c w i s).phase = .idle := rfl
@[simp] theorem raise_polls : (raise c w i s).polls = s.polls := rfl
@[simp] theorem raise_errlog : (raise c w i s).errlog = s.errlog ++ [{ code := c, command := w, info := i }] := rfl
@[simp] theorem raise_mem : (raise c w i s).mem = s.mem := rfl
@[simp] theorem raise_busy : (raise c w i s).busy = s.busy := rfl
@[simp] theorem raise_pendAddr : (raise c w i s).pendAddr = s.pendAddr := rfl
@[simp] theorem raise_pendVal : (raise c w i s).pendVal = s.pendVal := rfl
@[simp] theorem raise_cycleLeft : (raise c w i s).cycleLeft = s.cycleLeft := rfl
@[simp] theorem raise_overlapped : (raise c w i s).overlapped = s.overlapped := rfl
@[simp] theorem raise_faulty : (raise c w i s).faulty = s.faulty := rfl
@[simp] theorem raise_draws : (raise c w i s).draws = s.draws := rfl
@[simp] theorem raise_opAddr : (raise c w i s).opAddr = s.opAddr := rfl
@[simp] theorem raise_opVal : (raise c w i s).opVal = s.opVal := rfl
@[simp] theorem raise_pending : (raise c w i s).pending = s.pending := rfl
@[simp] theorem raise_latchPort : (raise c w i s).latchPort = s.latchPort := rfl
@[simp] theorem raise_trace : (raise c w i s).trace = s.trace := rfl
@[simp] theorem raise_results : (raise c w i s).results = s.results ++ [.err c i] := rfl

end

/-! ## shiftIn -/

section
variable (b : Bool) (s : State)

@[simp] theorem shiftIn_sr : (shiftIn b s).sr = (s.sr <<< 1) ||| bitWord 16 b := rfl
@[simp] theorem shiftIn_q : (shiftIn b s).q = s.q := rfl
@[simp] theorem shiftIn_dir : (shiftIn b s).dir = s.dir := rfl
@[simp] theorem shiftIn_dout : (shiftIn b s).dout = s.dout := rfl
@[simp] theorem shiftIn_weN : (shiftIn b s).weN = s.weN := rfl
@[simp] theorem shiftIn_ser : (shiftIn b s).ser = b := rfl
@[simp] theorem shiftIn_srclk : (shiftIn b s).srclk = false := rfl
@[simp] theorem shiftIn_rclk : (shiftIn b s).rclk = s.rclk := rfl
@[simp] theorem shiftIn_phase : (shiftIn b s).phase = s.phase := rfl
@[simp] theorem shiftIn_polls : (shiftIn b s).polls = s.polls := rfl
@[simp] theorem shiftIn_errlog : (shiftIn b s).errlog = s.errlog := rfl
@[simp] theorem shiftIn_mem : (shiftIn b s).mem = s.mem := rfl
@[simp] theorem shiftIn_busy : (shiftIn b s).busy = s.busy := rfl
@[simp] theorem shiftIn_pendAddr : (shiftIn b s).pendAddr = s.pendAddr := rfl
@[simp] theorem shiftIn_pendVal : (shiftIn b s).pendVal = s.pendVal := rfl
@[simp] theorem shiftIn_cycleLeft : (shiftIn b s).cycleLeft = s.cycleLeft := rfl
@[simp] theorem shiftIn_overlapped : (shiftIn b s).overlapped = s.overlapped := rfl
@[simp] theorem shiftIn_faulty : (shiftIn b s).faulty = s.faulty := rfl
@[simp] theorem shiftIn_draws : (shiftIn b s).draws = s.draws := rfl
@[simp] theorem shiftIn_opAddr : (shiftIn b s).opAddr = s.opAddr := rfl
@[simp] theorem shiftIn_opVal : (shiftIn b s).opVal = s.opVal := rfl
@[simp] theorem shiftIn_pending : (shiftIn b s).pending = s.pending := rfl
@[simp] theorem shiftIn_latchPort : (shiftIn b s).latchPort = s.latchPort := rfl
@[simp] theorem shiftIn_trace : (shiftIn b s).trace = s.trace := rfl
@[simp] theorem shiftIn_results : (shiftIn b s).results = s.results := rfl

end

/-! ## latchPulse -/

section
variable (s : State)

@[simp] theorem latchPulse_sr : (latchPulse s).sr = s.sr := rfl
@[simp] theorem latchPulse_q : (latchPulse s).q = s.sr := rfl
@[simp] theorem latchPulse_dir : (latchPulse s).dir = s.dir := rfl
@[simp] theorem latchPulse_dout : (latchPulse s).dout = s.dout := rfl
@[simp] theorem latchPulse_weN : (latchPulse s).weN = s.weN := rfl
@[simp] theorem latchPulse_ser : (latchPulse s).ser = s.ser := rfl
@[simp] theorem latchPulse_srclk : (latchPulse s).srclk = s.srclk := rfl
@[simp] theorem latchPulse_rclk : (latchPulse s).rclk = false := rfl
@[simp] theorem latchPulse_phase : (latchPulse s).phase = s.phase := rfl
@[simp] theorem latchPulse_polls : (latchPulse s).polls = s.polls := rfl
@[simp] theorem latchPulse_errlog : (latchPulse s).errlog = s.errlog := rfl
@[simp] theorem latchPulse_mem : (latchPulse s).mem = s.mem := rfl
@[simp] theorem latchPulse_busy : (latchPulse s).busy = s.busy := rfl
@[simp] theorem latchPulse_pendAddr : (latchPulse s).pendAddr = s.pendAddr := rfl
@[simp] theorem latchPulse_pendVal : (latchPulse s).pendVal = s.pendVal := rfl
@[simp] theorem latchPulse_cycleLeft : (latchPulse s).cycleLeft = s.cycleLeft := rfl
@[simp] theorem latchPulse_overlapped : (latchPulse s).overlapped = s.overlapped := rfl
@[simp] theorem latchPulse_faulty : (latchPulse s).faulty = s.faulty := rfl
@[simp] theorem latchPulse_draws : (latchPulse s).draws = s.draws := rfl
@[simp] theorem latchPulse_opAddr : (latchPulse s).opAddr = s.opAddr := rfl
@[simp] theorem latchPulse_opVal : (latchPulse s).opVal = s.opVal := rfl
@[simp] theorem latchPulse_pending : (latchPulse s).pending = s.pending := rfl
@[simp] theorem latchPulse_latchPort : (latchPulse s).latchPort = s.latchPort := rfl
@[simp] theorem latchPulse_trace : (latchPulse s).trace = s.trace := rfl
@[simp] theorem latchPulse_results : (latchPulse s).results = s.results := rfl

end

/-! ## finishCycle -/

section
variable (p : Params) (s : State)

@[simp] theorem finishCycle_sr : (finishCycle p s).sr = s.sr := rfl
@[simp] theorem finishCycle_q : (finishCycle p s).q = s.q := rfl
@[simp] theorem finishCycle_dir : (finishCycle p s).dir = s.dir := rfl
@[simp] theorem finishCycle_dout : (finishCycle p s).dout = s.dout := rfl
@[simp] theorem finishCycle_weN : (finishCycle p s).weN = s.weN := rfl
@[simp] theorem finishCycle_ser : (finishCycle p s).ser = s.ser := rfl
@[simp] theorem finishCycle_srclk : (finishCycle p s).srclk = s.srclk := rfl
@[simp] theorem finishCycle_rclk : (finishCycle p s).rclk = s.rclk := rfl
@[simp] theorem finishCycle_phase : (finishCycle p s).phase = s.phase := rfl
@[simp] theorem finishCycle_polls : (finishCycle p s).polls = s.polls := rfl
@[simp] theorem finishCycle_errlog : (finishCycle p s).errlog = s.errlog := rfl
@[simp] theorem finishCycle_mem : (finishCycle p s).mem = if s.overlapped then s.mem
      else Memory.write p.initialByte s.mem s.pendAddr.toNat s.pendVal := rfl
@[simp] theorem finishCycle_busy : (finishCycle p s).busy = false := rfl
@[simp] theorem finishCycle_pendAddr : (finishCycle p s).pendAddr = s.pendAddr := rfl
@[simp] theorem finishCycle_pendVal : (finishCycle p s).pendVal = s.pendVal := rfl
@[simp] theorem finishCycle_cycleLeft : (finishCycle p s).cycleLeft = none := rfl
@[simp] theorem finishCycle_overlapped : (finishCycle p s).overlapped = false := rfl
@[simp] theorem finishCycle_faulty : (finishCycle p s).faulty = s.faulty := rfl
@[simp] theorem finishCycle_draws : (finishCycle p s).draws = s.draws := rfl
@[simp] theorem finishCycle_opAddr : (finishCycle p s).opAddr = s.opAddr := rfl
@[simp] theorem finishCycle_opVal : (finishCycle p s).opVal = s.opVal := rfl
@[simp] theorem finishCycle_pending : (finishCycle p s).pending = s.pending := rfl
@[simp] theorem finishCycle_latchPort : (finishCycle p s).latchPort = s.latchPort := rfl
@[simp] theorem finishCycle_trace : (finishCycle p s).trace = s.trace := rfl
@[simp] theorem finishCycle_results : (finishCycle p s).results = s.results := rfl

end

/-! ## drawCell -/

section
variable (p : Params) (a : CellAddress) (s : State)

@[simp] theorem drawCell_sr : (drawCell p a s).sr = s.sr := rfl
@[simp] theorem drawCell_q : (drawCell p a s).q = s.q := rfl
@[simp] theorem drawCell_dir : (drawCell p a s).dir = s.dir := rfl
@[simp] theorem drawCell_dout : (drawCell p a s).dout = s.dout := rfl
@[simp] theorem drawCell_weN : (drawCell p a s).weN = s.weN := rfl
@[simp] theorem drawCell_ser : (drawCell p a s).ser = s.ser := rfl
@[simp] theorem drawCell_srclk : (drawCell p a s).srclk = s.srclk := rfl
@[simp] theorem drawCell_rclk : (drawCell p a s).rclk = s.rclk := rfl
@[simp] theorem drawCell_phase : (drawCell p a s).phase = s.phase := rfl
@[simp] theorem drawCell_polls : (drawCell p a s).polls = s.polls := rfl
@[simp] theorem drawCell_errlog : (drawCell p a s).errlog = s.errlog := rfl
@[simp] theorem drawCell_mem : (drawCell p a s).mem = Memory.write p.initialByte s.mem a.toNat (p.cellByte s.draws) := rfl
@[simp] theorem drawCell_busy : (drawCell p a s).busy = s.busy := rfl
@[simp] theorem drawCell_pendAddr : (drawCell p a s).pendAddr = s.pendAddr := rfl
@[simp] theorem drawCell_pendVal : (drawCell p a s).pendVal = s.pendVal := rfl
@[simp] theorem drawCell_cycleLeft : (drawCell p a s).cycleLeft = s.cycleLeft := rfl
@[simp] theorem drawCell_overlapped : (drawCell p a s).overlapped = s.overlapped := rfl
@[simp] theorem drawCell_faulty : (drawCell p a s).faulty = s.faulty := rfl
@[simp] theorem drawCell_draws : (drawCell p a s).draws = s.draws + 1 := rfl
@[simp] theorem drawCell_opAddr : (drawCell p a s).opAddr = s.opAddr := rfl
@[simp] theorem drawCell_opVal : (drawCell p a s).opVal = s.opVal := rfl
@[simp] theorem drawCell_pending : (drawCell p a s).pending = s.pending := rfl
@[simp] theorem drawCell_latchPort : (drawCell p a s).latchPort = s.latchPort := rfl
@[simp] theorem drawCell_trace : (drawCell p a s).trace = s.trace := rfl
@[simp] theorem drawCell_results : (drawCell p a s).results = s.results := rfl

end

/-! ## startRead -/

section
variable (a : Address) (s : State)

@[simp] theorem startRead_sr : (startRead a s).sr = s.sr := rfl
@[simp] theorem startRead_q : (startRead a s).q = s.q := rfl
@[simp] theorem startRead_dir : (startRead a s).dir = s.dir := rfl
@[simp] theorem startRead_dout : (startRead a s).dout = s.dout := rfl
@[simp] theorem startRead_weN : (startRead a s).weN = s.weN := rfl
@[simp] theorem startRead_ser : (startRead a s).ser = s.ser := rfl
@[simp] theorem startRead_srclk : (startRead a s).srclk = s.srclk := rfl
@[simp] theorem startRead_rclk : (startRead a s).rclk = s.rclk := rfl
@[simp] theorem startRead_phase : (startRead a s).phase = .rdDir := rfl
@[simp] theorem startRead_polls : (startRead a s).polls = s.polls := rfl
@[simp] theorem startRead_errlog : (startRead a s).errlog = s.errlog := rfl
@[simp] theorem startRead_mem : (startRead a s).mem = s.mem := rfl
@[simp] theorem startRead_busy : (startRead a s).busy = s.busy := rfl
@[simp] theorem startRead_pendAddr : (startRead a s).pendAddr = s.pendAddr := rfl
@[simp] theorem startRead_pendVal : (startRead a s).pendVal = s.pendVal := rfl
@[simp] theorem startRead_cycleLeft : (startRead a s).cycleLeft = s.cycleLeft := rfl
@[simp] theorem startRead_overlapped : (startRead a s).overlapped = s.overlapped := rfl
@[simp] theorem startRead_faulty : (startRead a s).faulty = s.faulty := rfl
@[simp] theorem startRead_draws : (startRead a s).draws = s.draws := rfl
@[simp] theorem startRead_opAddr : (startRead a s).opAddr = a := rfl
@[simp] theorem startRead_opVal : (startRead a s).opVal = s.opVal := rfl
@[simp] theorem startRead_pending : (startRead a s).pending = s.pending := rfl
@[simp] theorem startRead_latchPort : (startRead a s).latchPort = s.latchPort := rfl
@[simp] theorem startRead_trace : (startRead a s).trace = s.trace := rfl
@[simp] theorem startRead_results : (startRead a s).results = s.results := rfl

end

/-! ## startWrite -/

section
variable (a : Address) (v : Byte) (s : State)

@[simp] theorem startWrite_sr : (startWrite a v s).sr = s.sr := rfl
@[simp] theorem startWrite_q : (startWrite a v s).q = s.q := rfl
@[simp] theorem startWrite_dir : (startWrite a v s).dir = s.dir := rfl
@[simp] theorem startWrite_dout : (startWrite a v s).dout = s.dout := rfl
@[simp] theorem startWrite_weN : (startWrite a v s).weN = s.weN := rfl
@[simp] theorem startWrite_ser : (startWrite a v s).ser = s.ser := rfl
@[simp] theorem startWrite_srclk : (startWrite a v s).srclk = s.srclk := rfl
@[simp] theorem startWrite_rclk : (startWrite a v s).rclk = s.rclk := rfl
@[simp] theorem startWrite_phase : (startWrite a v s).phase = .wrLatch := rfl
@[simp] theorem startWrite_polls : (startWrite a v s).polls = s.polls := rfl
@[simp] theorem startWrite_errlog : (startWrite a v s).errlog = s.errlog := rfl
@[simp] theorem startWrite_mem : (startWrite a v s).mem = s.mem := rfl
@[simp] theorem startWrite_busy : (startWrite a v s).busy = s.busy := rfl
@[simp] theorem startWrite_pendAddr : (startWrite a v s).pendAddr = s.pendAddr := rfl
@[simp] theorem startWrite_pendVal : (startWrite a v s).pendVal = s.pendVal := rfl
@[simp] theorem startWrite_cycleLeft : (startWrite a v s).cycleLeft = s.cycleLeft := rfl
@[simp] theorem startWrite_overlapped : (startWrite a v s).overlapped = s.overlapped := rfl
@[simp] theorem startWrite_faulty : (startWrite a v s).faulty = s.faulty := rfl
@[simp] theorem startWrite_draws : (startWrite a v s).draws = s.draws := rfl
@[simp] theorem startWrite_opAddr : (startWrite a v s).opAddr = a := rfl
@[simp] theorem startWrite_opVal : (startWrite a v s).opVal = v := rfl
@[simp] theorem startWrite_pending : (startWrite a v s).pending = s.pending := rfl
@[simp] theorem startWrite_latchPort : (startWrite a v s).latchPort = s.latchPort := rfl
@[simp] theorem startWrite_trace : (startWrite a v s).trace = s.trace := rfl
@[simp] theorem startWrite_results : (startWrite a v s).results = s.results := rfl

end

/-! ## latched -/

section
variable (a : Address) (oe : Bool) (s : State)

@[simp] theorem latched_sr : (latched a oe s).sr = latchWord a oe := rfl
@[simp] theorem latched_q : (latched a oe s).q = latchWord a oe := rfl
@[simp] theorem latched_dir : (latched a oe s).dir = s.dir := rfl
@[simp] theorem latched_dout : (latched a oe s).dout = s.dout := rfl
@[simp] theorem latched_weN : (latched a oe s).weN = s.weN := rfl
@[simp] theorem latched_ser : (latched a oe s).ser = (latchWord a oe).getLsbD 0 := rfl
@[simp] theorem latched_srclk : (latched a oe s).srclk = false := rfl
@[simp] theorem latched_rclk : (latched a oe s).rclk = false := rfl
@[simp] theorem latched_phase : (latched a oe s).phase = s.phase := rfl
@[simp] theorem latched_polls : (latched a oe s).polls = s.polls := rfl
@[simp] theorem latched_errlog : (latched a oe s).errlog = s.errlog := rfl
@[simp] theorem latched_mem : (latched a oe s).mem = s.mem := rfl
@[simp] theorem latched_busy : (latched a oe s).busy = s.busy := rfl
@[simp] theorem latched_pendAddr : (latched a oe s).pendAddr = s.pendAddr := rfl
@[simp] theorem latched_pendVal : (latched a oe s).pendVal = s.pendVal := rfl
@[simp] theorem latched_cycleLeft : (latched a oe s).cycleLeft = s.cycleLeft := rfl
@[simp] theorem latched_overlapped : (latched a oe s).overlapped = s.overlapped := rfl
@[simp] theorem latched_faulty : (latched a oe s).faulty = s.faulty := rfl
@[simp] theorem latched_draws : (latched a oe s).draws = s.draws := rfl
@[simp] theorem latched_opAddr : (latched a oe s).opAddr = s.opAddr := rfl
@[simp] theorem latched_opVal : (latched a oe s).opVal = s.opVal := rfl
@[simp] theorem latched_pending : (latched a oe s).pending = s.pending := rfl
@[simp] theorem latched_latchPort : (latched a oe s).latchPort = s.latchPort := rfl
@[simp] theorem latched_trace : (latched a oe s).trace = s.trace := rfl
@[simp] theorem latched_results : (latched a oe s).results = s.results := rfl

end

end Sys2Proof.Machine
end

