-- ==== Sys2Proof/Laws/Ops.lean ====
section
/-! SUPPORT. The laws of the shared operations: what the chip's tick and the start of a write cycle can
change, what a sample answers, and each bus event on a chip that is not busy. -/

namespace Sys2Proof.Machine

variable (p : Params) (s : State)

/-! ## The chip's tick changes only the chip -/

section
@[simp] theorem chipTick_sr : (chipTick p s).sr = s.sr := by
  unfold chipTick; split <;> [split; skip] <;> rfl
@[simp] theorem chipTick_q : (chipTick p s).q = s.q := by
  unfold chipTick; split <;> [split; skip] <;> rfl
@[simp] theorem chipTick_dir : (chipTick p s).dir = s.dir := by
  unfold chipTick; split <;> [split; skip] <;> rfl
@[simp] theorem chipTick_dout : (chipTick p s).dout = s.dout := by
  unfold chipTick; split <;> [split; skip] <;> rfl
@[simp] theorem chipTick_weN : (chipTick p s).weN = s.weN := by
  unfold chipTick; split <;> [split; skip] <;> rfl
@[simp] theorem chipTick_ser : (chipTick p s).ser = s.ser := by
  unfold chipTick; split <;> [split; skip] <;> rfl
@[simp] theorem chipTick_srclk : (chipTick p s).srclk = s.srclk := by
  unfold chipTick; split <;> [split; skip] <;> rfl
@[simp] theorem chipTick_rclk : (chipTick p s).rclk = s.rclk := by
  unfold chipTick; split <;> [split; skip] <;> rfl
@[simp] theorem chipTick_phase : (chipTick p s).phase = s.phase := by
  unfold chipTick; split <;> [split; skip] <;> rfl
@[simp] theorem chipTick_polls : (chipTick p s).polls = s.polls := by
  unfold chipTick; split <;> [split; skip] <;> rfl
@[simp] theorem chipTick_errlog : (chipTick p s).errlog = s.errlog := by
  unfold chipTick; split <;> [split; skip] <;> rfl
@[simp] theorem chipTick_pendAddr : (chipTick p s).pendAddr = s.pendAddr := by
  unfold chipTick; split <;> [split; skip] <;> rfl
@[simp] theorem chipTick_pendVal : (chipTick p s).pendVal = s.pendVal := by
  unfold chipTick; split <;> [split; skip] <;> rfl
@[simp] theorem chipTick_faulty : (chipTick p s).faulty = s.faulty := by
  unfold chipTick; split <;> [split; skip] <;> rfl
@[simp] theorem chipTick_draws : (chipTick p s).draws = s.draws := by
  unfold chipTick; split <;> [split; skip] <;> rfl
@[simp] theorem chipTick_opAddr : (chipTick p s).opAddr = s.opAddr := by
  unfold chipTick; split <;> [split; skip] <;> rfl
@[simp] theorem chipTick_opVal : (chipTick p s).opVal = s.opVal := by
  unfold chipTick; split <;> [split; skip] <;> rfl
@[simp] theorem chipTick_pending : (chipTick p s).pending = s.pending := by
  unfold chipTick; split <;> [split; skip] <;> rfl
@[simp] theorem chipTick_latchPort : (chipTick p s).latchPort = s.latchPort := by
  unfold chipTick; split <;> [split; skip] <;> rfl
@[simp] theorem chipTick_trace : (chipTick p s).trace = s.trace := by
  unfold chipTick; split <;> [split; skip] <;> rfl
@[simp] theorem chipTick_results : (chipTick p s).results = s.results := by
  unfold chipTick; split <;> [split; skip] <;> rfl
end

/-- The tick of a chip at rest does nothing. -/
theorem chipTick_of_not_busy {p : Params} {s : State} (h : s.busy = false) : chipTick p s = s := by
  simp [chipTick, h]

/-- What the tick can do: nothing, or the cycle comes one event nearer to its end, or it ends. -/
theorem chipTick_cases :
    (chipTick p s = s ∧ (s.busy = false ∨ s.cycleLeft = none)) ∨
    (∃ n, s.busy = true ∧ s.cycleLeft = some (n + 1) ∧
      chipTick p s = { s with cycleLeft := some n }) ∨
    (s.busy = true ∧ s.cycleLeft = some 0 ∧ chipTick p s = finishCycle p s) := by
  unfold chipTick
  cases hb : s.busy with
  | false => simp
  | true =>
    cases hc : s.cycleLeft with
    | none => simp
    | some n => cases n <;> simp

/-! ## The start of a write cycle changes only the chip and the draw counter -/

section
@[simp] theorem startCycle_sr : (startCycle p s).sr = s.sr := by
  unfold startCycle; split <;> rfl
@[simp] theorem startCycle_q : (startCycle p s).q = s.q := by
  unfold startCycle; split <;> rfl
@[simp] theorem startCycle_dir : (startCycle p s).dir = s.dir := by
  unfold startCycle; split <;> rfl
@[simp] theorem startCycle_dout : (startCycle p s).dout = s.dout := by
  unfold startCycle; split <;> rfl
@[simp] theorem startCycle_weN : (startCycle p s).weN = s.weN := by
  unfold startCycle; split <;> rfl
@[simp] theorem startCycle_ser : (startCycle p s).ser = s.ser := by
  unfold startCycle; split <;> rfl
@[simp] theorem startCycle_srclk : (startCycle p s).srclk = s.srclk := by
  unfold startCycle; split <;> rfl
@[simp] theorem startCycle_rclk : (startCycle p s).rclk = s.rclk := by
  unfold startCycle; split <;> rfl
@[simp] theorem startCycle_phase : (startCycle p s).phase = s.phase := by
  unfold startCycle; split <;> rfl
@[simp] theorem startCycle_polls : (startCycle p s).polls = s.polls := by
  unfold startCycle; split <;> rfl
@[simp] theorem startCycle_errlog : (startCycle p s).errlog = s.errlog := by
  unfold startCycle; split <;> rfl
@[simp] theorem startCycle_faulty : (startCycle p s).faulty = s.faulty := by
  unfold startCycle; split <;> rfl
@[simp] theorem startCycle_opAddr : (startCycle p s).opAddr = s.opAddr := by
  unfold startCycle; split <;> rfl
@[simp] theorem startCycle_opVal : (startCycle p s).opVal = s.opVal := by
  unfold startCycle; split <;> rfl
@[simp] theorem startCycle_pending : (startCycle p s).pending = s.pending := by
  unfold startCycle; split <;> rfl
@[simp] theorem startCycle_latchPort : (startCycle p s).latchPort = s.latchPort := by
  unfold startCycle; split <;> rfl
@[simp] theorem startCycle_trace : (startCycle p s).trace = s.trace := by
  unfold startCycle; split <;> rfl
@[simp] theorem startCycle_results : (startCycle p s).results = s.results := by
  unfold startCycle; split <;> rfl
@[simp] theorem startCycle_busy : (startCycle p s).busy = true := by
  unfold startCycle; split <;> simp_all
@[simp] theorem startCycle_pendAddr : (startCycle p s).pendAddr = chipAddress p s.q := by
  unfold startCycle; split <;> simp_all
@[simp] theorem startCycle_pendVal : (startCycle p s).pendVal = s.dout := by
  unfold startCycle; split <;> simp_all
@[simp] theorem startCycle_overlapped : (startCycle p s).overlapped = s.busy := by
  unfold startCycle; split <;> simp_all
end

/-! ## The cell of a WRITE that timed out -/

/-- After a WriteTimeout the pending cell of a busy chip is a draw, and nothing else changes (R147). -/
theorem unsettle_cases : unsettle p s = s ∧ s.busy = false ∨
    unsettle p s = drawCell p s.pendAddr s ∧ s.busy = true := by
  unfold unsettle
  cases s.busy <;> simp

section
@[simp] theorem unsettle_sr : (unsettle p s).sr = s.sr := by
  unfold unsettle; split <;> rfl
@[simp] theorem unsettle_q : (unsettle p s).q = s.q := by
  unfold unsettle; split <;> rfl
@[simp] theorem unsettle_dir : (unsettle p s).dir = s.dir := by
  unfold unsettle; split <;> rfl
@[simp] theorem unsettle_dout : (unsettle p s).dout = s.dout := by
  unfold unsettle; split <;> rfl
@[simp] theorem unsettle_weN : (unsettle p s).weN = s.weN := by
  unfold unsettle; split <;> rfl
@[simp] theorem unsettle_ser : (unsettle p s).ser = s.ser := by
  unfold unsettle; split <;> rfl
@[simp] theorem unsettle_srclk : (unsettle p s).srclk = s.srclk := by
  unfold unsettle; split <;> rfl
@[simp] theorem unsettle_rclk : (unsettle p s).rclk = s.rclk := by
  unfold unsettle; split <;> rfl
@[simp] theorem unsettle_phase : (unsettle p s).phase = s.phase := by
  unfold unsettle; split <;> rfl
@[simp] theorem unsettle_polls : (unsettle p s).polls = s.polls := by
  unfold unsettle; split <;> rfl
@[simp] theorem unsettle_errlog : (unsettle p s).errlog = s.errlog := by
  unfold unsettle; split <;> rfl
@[simp] theorem unsettle_busy : (unsettle p s).busy = s.busy := by
  unfold unsettle; split <;> rfl
@[simp] theorem unsettle_pendAddr : (unsettle p s).pendAddr = s.pendAddr := by
  unfold unsettle; split <;> rfl
@[simp] theorem unsettle_pendVal : (unsettle p s).pendVal = s.pendVal := by
  unfold unsettle; split <;> rfl
@[simp] theorem unsettle_cycleLeft : (unsettle p s).cycleLeft = s.cycleLeft := by
  unfold unsettle; split <;> rfl
@[simp] theorem unsettle_overlapped : (unsettle p s).overlapped = s.overlapped := by
  unfold unsettle; split <;> rfl
@[simp] theorem unsettle_faulty : (unsettle p s).faulty = s.faulty := by
  unfold unsettle; split <;> rfl
@[simp] theorem unsettle_opAddr : (unsettle p s).opAddr = s.opAddr := by
  unfold unsettle; split <;> rfl
@[simp] theorem unsettle_opVal : (unsettle p s).opVal = s.opVal := by
  unfold unsettle; split <;> rfl
@[simp] theorem unsettle_pending : (unsettle p s).pending = s.pending := by
  unfold unsettle; split <;> rfl
@[simp] theorem unsettle_latchPort : (unsettle p s).latchPort = s.latchPort := by
  unfold unsettle; split <;> rfl
@[simp] theorem unsettle_trace : (unsettle p s).trace = s.trace := by
  unfold unsettle; split <;> rfl
@[simp] theorem unsettle_results : (unsettle p s).results = s.results := by
  unfold unsettle; split <;> rfl
end

/-- It changes nothing but MEM and the draw counter. -/
theorem unsettle_frame :
    unsettle p s = { s with mem := (unsettle p s).mem, draws := (unsettle p s).draws } := by
  rcases unsettle_cases p s with ⟨h, _⟩ | ⟨h, _⟩ <;> rw [h]
  rfl

/-! ## Samples -/

/-- What a sample can do to the state: a level and at most one draw. -/
theorem lineLevel_cases (i : Nat) :
    lineLevel p i s = drawBit p s ∨ ∃ b, lineLevel p i s = (b, s) := by
  unfold lineLevel
  split
  · exact .inl rfl
  · split
    · exact .inl rfl
    · split
      · exact .inl rfl
      · split
        · exact .inr ⟨_, rfl⟩
        · split
          · exact .inl rfl
          · exact .inr ⟨_, rfl⟩

/-- A sample changes the state after the tick only in the draw counter and the trace. -/
theorem sample_state (i : Nat) :
    ∃ n, (sample p i s).2 =
      { chipTick p s with draws := n, trace := s.trace ++ [.sample i (sample p i s).1] } := by
  rcases lineLevel_cases p (chipTick p s) i with h | ⟨b, h⟩
  · exact ⟨s.draws + 1, by simp [sample, h, drawBit, emit]⟩
  · exact ⟨s.draws, by simp [sample, h, emit]⟩

/-- A sound idle chip with output enable asserted and the lines as inputs presents the addressed cell
(R52). -/
theorem sample_of_not_busy {p : Params} {s : State} (hb : s.busy = false) (hf : s.faulty = false)
    (hd : s.dir = 0x00#8)
    (hq : outputEnableN s.q = false) (i : Nat) :
    sample p i s =
      ((s.cell p (chipAddress p s.q)).getLsbD i,
        emit (.sample i ((s.cell p (chipAddress p s.q)).getLsbD i)) s) := by
  simp [sample, chipTick_of_not_busy hb, lineLevel, hb, hf, hd, hq]

/-- A disconnected or faulty chip presents a draw on every line (R126). -/
theorem lineLevel_faulty {p : Params} {s : State} (hf : s.faulty = true) (i : Nat) (hd : s.dir = 0x00#8) :
    lineLevel p i s = drawBit p s := by
  simp [lineLevel, hf, hd]

/-- A sound busy chip presents the complement of the written bit on D7 at the pending address (R54). -/
theorem lineLevel_polling {p : Params} {s : State} (hb : s.busy = true)
    (ho : s.overlapped = false) (hf : s.faulty = false) (hd : s.dir = 0x00#8)
    (hq : outputEnableN s.q = false) (ha : chipAddress p s.q = s.pendAddr) :
    lineLevel p 7 s = (!s.pendVal.getLsbD 7, s) := by
  simp [lineLevel, hb, ho, hf, hd, hq, ha]

/-! ## The chip's operations as a whole -/

/-- The tick changes nothing but MEM and the chip's own bookkeeping. -/
theorem chipTick_frame : chipTick p s = { s with
    mem := (chipTick p s).mem
    busy := (chipTick p s).busy
    cycleLeft := (chipTick p s).cycleLeft
    overlapped := (chipTick p s).overlapped } := by
  rcases chipTick_cases p s with ⟨h, _⟩ | ⟨_, _, _, h⟩ | ⟨_, _, h⟩ <;> rw [h]
  rfl

/-- The tick of a chip that never finishes does nothing. -/
theorem chipTick_of_never {p : Params} {s : State} (h : s.cycleLeft = none) : chipTick p s = s := by
  unfold chipTick
  simp [h]

/-- A sample changes nothing but what the tick changes, the draw counter and the trace. -/
theorem sample_frame (i : Nat) : (sample p i s).2 = { s with
    mem := (sample p i s).2.mem
    busy := (sample p i s).2.busy
    cycleLeft := (sample p i s).2.cycleLeft
    overlapped := (sample p i s).2.overlapped
    draws := (sample p i s).2.draws
    trace := s.trace ++ [.sample i (sample p i s).1] } := by
  obtain ⟨n, hn⟩ := sample_state p s i
  simp only [hn]
  rw [chipTick_frame]

/-- The cells after a write of a cell. -/
theorem read_write_cell {p : Params} {m : Memory} (hm : Memory.wf p m)
    (a : CellAddress) (v : Byte) (x : CellAddress) :
    Memory.read p.initialByte (Memory.write p.initialByte m a.toNat v) x.toNat =
      if x = a then v else Memory.read p.initialByte m x.toNat := by
  rw [memory_read_write hm.1]
  simp [BitVec.toNat_inj]

/-! ## The memory keeps its canonical form, and the pending write its range -/

theorem romSize_pos (p : Params) : 0 < p.romSize := Nat.two_pow_pos _

/-- ROM_SIZE is at most 32768 (R8). -/
theorem romSize_le (p : Params) : p.romSize ≤ 32768 := by
  have h := Nat.pow_le_pow_right (n := 2) (by omega) (Nat.le_of_lt_succ p.addrBits.isLt)
  exact h

/-- The chip sees the low ADDR_BITS of Q (R24). -/
theorem toNat_chipAddress (p : Params) (q : LatchWord) :
    (chipAddress p q).toNat = q.toNat % p.romSize := by
  rw [chipAddress, BitVec.toNat_ofNat]
  exact Nat.mod_eq_of_lt (lt_of_lt_of_le (Nat.mod_lt _ (romSize_pos p)) (romSize_le p))

theorem chipAddress_lt (p : Params) (q : LatchWord) : (chipAddress p q).toNat < p.romSize := by
  rw [toNat_chipAddress]
  exact Nat.mod_lt _ (romSize_pos p)

section
variable {p : Params} {s : State}

theorem finishCycle_wf (h : Memory.wf p s.mem) (ha : PendingInRange p s) :
    Memory.wf p (finishCycle p s).mem := by
  rw [finishCycle_mem]
  split
  · exact h
  · exact memory_write_wf h ha _

theorem chipTick_wf (h : Memory.wf p s.mem) (ha : PendingInRange p s) :
    Memory.wf p (chipTick p s).mem := by
  rcases chipTick_cases p s with ⟨e, _⟩ | ⟨_, _, _, e⟩ | ⟨_, _, e⟩ <;> rw [e]
  · exact h
  · exact h
  · exact finishCycle_wf h ha

theorem startCycle_wf (h : Memory.wf p s.mem) (ha : PendingInRange p s) :
    Memory.wf p (startCycle p s).mem := by
  unfold startCycle
  split
  · exact memory_write_wf (memory_write_wf h ha _) (chipAddress_lt p s.q) _
  · exact h

theorem unsettle_wf (h : Memory.wf p s.mem) (ha : PendingInRange p s) :
    Memory.wf p (unsettle p s).mem := by
  rcases unsettle_cases p s with ⟨e, _⟩ | ⟨e, _⟩ <;> rw [e]
  · exact h
  · exact memory_write_wf h ha _

theorem sample_wf (h : Memory.wf p s.mem) (ha : PendingInRange p s) (i : Nat) :
    Memory.wf p (sample p i s).2.mem := by
  obtain ⟨n, hn⟩ := sample_state p s i
  rw [hn]
  exact chipTick_wf h ha

end

theorem reset_memory_wf (p : Params) : Memory.wf p State.reset.mem := memory_wf_nil

/-! ## Data lines -/

/-- Setting line i sets that bit and no other. -/
theorem getLsbD_setLine (d : Byte) {i j : Nat} (b : Bool) (hj : j < 8) :
    (setLine d i b).getLsbD j = if j = i then b else d.getLsbD j := by
  have hbit : ((1#8 <<< i).getLsbD j) = decide (j = i) := by
    rw [BitVec.getLsbD_shiftLeft]
    rcases lt_trichotomy j i with h | h | h
    · simp [h, Nat.ne_of_lt h]
    · subst h; simp [hj]
    · have h1 : j - i ≠ 0 := by omega
      simp [BitVec.getLsbD_one, h1, Nat.ne_of_gt h]
  unfold setLine
  cases b
  · rw [if_neg (by simp), BitVec.getLsbD_and, BitVec.getLsbD_not, hbit]
    by_cases h : j = i <;> simp [h, hj]
  · rw [if_pos rfl, BitVec.getLsbD_or, hbit]
    by_cases h : j = i <;> simp [h]

/-- The eight drives leave exactly the value on the output latch (R26, R129). -/
theorem driveLines_eq (d v : Byte) : driveLines d v = v := by
  apply BitVec.eq_of_getLsbD_eq
  intro j hj
  simp only [driveLines, linesUp, List.foldl, getLsbD_setLine _ _ hj]
  interval_cases j <;> simp

end Sys2Proof.Machine
end

