-- ==== Sys2Proof/Laws/AddressLatch.lean ====
section
/-! SUPPORT. The laws of SET_ADDRESS: what it leaves in the registers, and what the latch word says to
the chip. -/

namespace Sys2Proof.Machine

theorem getLsbD_bitWord (b : Bool) (j : Nat) :
    (bitWord 16 b).getLsbD j = (decide (j = 0) && b) := by
  cases b
  · simp [bitWord]
  · have h1 : (bitWord 16 true) = 1#16 := rfl
    rw [h1, BitVec.getLsbD_one]
    by_cases h : j = 0 <;> simp [h]

/-- After the 16 shifts SR is the word, whatever it held, and SER is its last bit (R113). -/
theorem shiftWord_eq (w : LatchWord) (s : State) :
    shiftWord w s = { s with sr := w, ser := w.getLsbD 0, srclk := false } := by
  have hsr : (shiftWord w s).sr = w := by
    apply BitVec.eq_of_getLsbD_eq
    intro j hj
    simp only [shiftWord, bitsDown, List.foldl, shiftIn_sr]
    interval_cases j <;> simp [getLsbD_bitWord, -BitVec.getLsbD_eq_getElem]
  have hrest : shiftWord w s =
      { s with sr := (shiftWord w s).sr, ser := w.getLsbD 0, srclk := false } := rfl
  rw [hrest, hsr]

/-- SET_ADDRESS is the tick, the latched registers and the event (R110). -/
theorem setAddress_eq (p : Params) (a : Address) (oe : Bool) (s : State) :
    setAddress p a oe s = emit (.latch (latchWord a oe)) (latched a oe (chipTick p s)) := by
  rw [setAddress, shiftWord_eq]
  rfl

/-! ## What the latch word says -/

/-- The high bits of an address in range are 0. -/
theorem getLsbD_of_inRange {p : Params} {a : Address} (h : inRange p a) {j : Nat}
    (hj : p.addrBits.val ≤ j) : a.getLsbD j = false := by
  rw [BitVec.getLsbD, Nat.testBit_lt_two_pow]
  exact lt_of_lt_of_le h (Nat.pow_le_pow_right (by omega) hj)

/-- The bits of a latch word: OE_N on top, the address below (R85). -/
theorem getLsbD_latchWord (a : Address) (oe : Bool) {j : Nat} (hj : j < 16) :
    (latchWord a oe).getLsbD j = (a.getLsbD j || (decide (j = 15) && !oe)) := by
  rw [latchWord, BitVec.getLsbD_append]
  by_cases h8 : j < 8
  · have h15 : j ≠ 15 := by omega
    simp [h8, h15]
  · have hlt : j - 8 < 8 := by omega
    have hadd : 8 + (j - 8) = j := by omega
    cases oe
    · have : (128#8).getLsbD (j - 8) = decide (j = 15) := by interval_cases j <;> simp_all
      rw [BitVec.getLsbD_eq_getElem hlt] at this
      simp [h8, hlt, hadd, this]
    · simp [h8, hlt, hadd]

/-- The latch word in R85's simplified form. -/
theorem latchWord_eq (a : Address) (oe : Bool) :
    latchWord a oe = (if oe then 0x0000#16 else 0x8000#16) ||| a := by
  apply BitVec.eq_of_getLsbD_eq
  intro j hj
  rw [getLsbD_latchWord a oe hj, BitVec.getLsbD_or]
  cases oe
  · have : (32768#16).getLsbD j = decide (j = 15) := by interval_cases j <;> rfl
    simp [this, Bool.or_comm]
  · simp

theorem outputEnableN_latchWord {p : Params} {a : Address} (h : inRange p a) (oe : Bool) :
    outputEnableN (latchWord a oe) = !oe := by
  have h15 : p.addrBits.val ≤ 15 := Nat.le_of_lt_succ p.addrBits.isLt
  rw [outputEnableN, getLsbD_latchWord a oe (by omega), getLsbD_of_inRange h h15]
  simp

/-- The low 15 bits of a latch word are the address's (R85). -/
theorem latchWord_low (a : Address) (oe : Bool) :
    (latchWord a oe).toNat % 2 ^ 15 = a.toNat % 2 ^ 15 := by
  apply Nat.eq_of_testBit_eq
  intro j
  rw [Nat.testBit_mod_two_pow, Nat.testBit_mod_two_pow]
  by_cases hj : j < 15
  · have h15 : j ≠ 15 := by omega
    have h := getLsbD_latchWord a oe (j := j) (by omega)
    simp only [h15, decide_false, Bool.false_and, Bool.or_false] at h
    rw [BitVec.getLsbD, BitVec.getLsbD] at h
    simp [hj, h]
  · simp [hj]

theorem toNat_setWidth {p : Params} {a : Address} (h : inRange p a) :
    (a.setWidth 15).toNat = a.toNat := by
  rw [BitVec.toNat_setWidth]
  exact Nat.mod_eq_of_lt (lt_of_lt_of_le h (romSize_le p))

/-- The chip sees the address of a latch word (R24, R110). -/
theorem chipAddress_latchWord {p : Params} {a : Address} (h : inRange p a) (oe : Bool) :
    chipAddress p (latchWord a oe) = a.setWidth 15 := by
  apply BitVec.eq_of_toNat_eq
  have hd : p.romSize ∣ 2 ^ 15 := Nat.pow_dvd_pow 2 (Nat.le_of_lt_succ p.addrBits.isLt)
  rw [toNat_chipAddress, toNat_setWidth h, ← Nat.mod_mod_of_dvd _ hd, latchWord_low,
    Nat.mod_mod_of_dvd _ hd, Nat.mod_eq_of_lt h]

/-- Bits 14:ADDR_BITS of a latch word are 0 exactly where its low 15 bits are an address of the chip (R85,
R91 (d)). -/
theorem reserved_zero_iff (p : Params) (x : BitVec 15) :
    x >>> p.addrBits.val = 0#15 ↔ x.toNat < p.romSize := by
  rw [← BitVec.toNat_inj, BitVec.toNat_ushiftRight, Nat.shiftRight_eq_div_pow]
  simp [Params.romSize, Nat.div_eq_zero_iff]

end Sys2Proof.Machine
end

