-- ==== Sys2Proof/Laws/Images.lean ====
section
/-! SUPPORT. The laws of the two image addresses: their fields are what they were made of (F-DISP,
F-UCODE), and an image listed in rising order holds at each address the byte of that address. -/

namespace Sys2Proof.Machine

/-- The fields of a display-image address (R86). -/
theorem disp_fields (r : BitVec 1) (q : BitVec 2) (b : Byte) :
    dispRegion (r ++ q ++ b) = r.getLsbD 0 ∧ dispPos (r ++ q ++ b) = q ∧
      dispByte (r ++ q ++ b) = b := by
  refine ⟨?_, ?_, ?_⟩
  · simp only [dispRegion, BitVec.getLsbD_append]
    simp
  · apply BitVec.eq_of_getLsbD_eq
    intro i hi
    simp only [dispPos, BitVec.getLsbD_extractLsb', BitVec.getLsbD_append]
    interval_cases i <;> simp
  · apply BitVec.eq_of_getLsbD_eq
    intro i hi
    simp only [dispByte, BitVec.getLsbD_extractLsb', BitVec.getLsbD_append]
    interval_cases i <;> simp

/-- The fields of a microcode-image address (R87). -/
theorem ucode_fields (f : FlagState) (bs : Bool) (o : Opcode) (s : MicroStep) :
    ucodeFlags (ucodeAddress f bs o s) = f ∧ ucodeByteSelect (ucodeAddress f bs o s) = bs ∧
      ucodeOpcode (ucodeAddress f bs o s) = o ∧ ucodeStep (ucodeAddress f bs o s) = s := by
  refine ⟨?_, ?_, ?_, ?_⟩
  · apply BitVec.eq_of_getLsbD_eq
    intro i hi
    simp only [ucodeFlags, ucodeAddress, BitVec.getLsbD_extractLsb', BitVec.getLsbD_append]
    interval_cases i <;> simp
  · simp only [ucodeByteSelect, ucodeAddress, BitVec.getLsbD_append]
    cases bs <;> simp
  · apply BitVec.eq_of_getLsbD_eq
    intro i hi
    simp only [ucodeOpcode, ucodeAddress, BitVec.getLsbD_extractLsb', BitVec.getLsbD_append]
    interval_cases i <;> simp
  · apply BitVec.eq_of_getLsbD_eq
    intro i hi
    simp only [ucodeStep, ucodeAddress, BitVec.getLsbD_extractLsb', BitVec.getLsbD_append]
    interval_cases i <;> simp

/-- An image of 2^w bytes in rising order, read at an address. -/
theorem image_get {w n : Nat} (f : BitVec w → Byte) (hn : n = 2 ^ w) (a : BitVec w) :
    ((List.range n).map fun k => f (BitVec.ofNat w k))[a.toNat]? = some (f a) := by
  have := a.isLt
  simp [hn, this]

end Sys2Proof.Machine
end

