-- ==== Sys2Proof/Laws/PerInstr.lean ====
section
/-! SUPPORT. The family `TableRow`: the word of every well-formed instruction matches the row of
spec/opcode_table.json it stands for at this hardware's ROM_SIZE, in width, mask and match. One lemma per constructor of Instr. -/

namespace Sys2Proof.Laws

open Sys2Proof.Machine

/-- The bits of the encoded word under the row's mask are the row's match. -/
def TableRow.Statement (i : Instr) : Prop :=
  i.WellFormed Config.hardware →
    match i with
    | .read _ => ∃ w, encode i = .command w ∧ w &&& 0xFF0000FF#32 = 0x10000000#32
    | .write _ _ => ∃ w, encode i = .command w ∧ w &&& 0xFF000000#32 = 0x20000000#32
    | .genDisplay => ∃ w, encode i = .command w ∧ w &&& 0xFFFFFFFF#32 = 0x30000000#32
    | .genMicrocode => ∃ w, encode i = .command w ∧ w &&& 0xFFFFFFFF#32 = 0x40000000#32
    | .setAddress _ _ => ∃ w, encode i = .latch w ∧ w &&& 0x7800#16 = 0x0000#16

theorem TableRow.read (a : Address) : TableRow.Statement (.read a) := by
  refine fun _ => ⟨_, rfl, ?_⟩
  apply BitVec.eq_of_getLsbD_eq
  intro i hi
  simp only [commandWord, BitVec.getLsbD_and, BitVec.getLsbD_append]
  interval_cases i <;> simp

theorem TableRow.write (a : Address) (v : Byte) : TableRow.Statement (.write a v) := by
  refine fun _ => ⟨_, rfl, ?_⟩
  apply BitVec.eq_of_getLsbD_eq
  intro i hi
  simp only [commandWord, BitVec.getLsbD_and, BitVec.getLsbD_append]
  interval_cases i <;> simp

theorem TableRow.genDisplay : TableRow.Statement .genDisplay :=
  fun _ => ⟨_, rfl, by decide⟩

theorem TableRow.genMicrocode : TableRow.Statement .genMicrocode :=
  fun _ => ⟨_, rfl, by decide⟩

theorem TableRow.setAddress (a : Address) (oe : Bool) : TableRow.Statement (.setAddress a oe) := by
  intro h
  have ha : inRange Config.hardware a := by simpa [Instr.WellFormed, Instr.wellFormed] using h
  refine ⟨_, rfl, ?_⟩
  apply BitVec.eq_of_getLsbD_eq
  intro i hi
  rw [BitVec.getLsbD_and, getLsbD_latchWord a oe hi]
  have hbits : Config.hardware.addrBits.val = 11 := rfl
  by_cases h11 : 11 ≤ i
  · rw [getLsbD_of_inRange ha (hbits.trans_le h11)]
    interval_cases i <;> simp
  · interval_cases i <;> simp

end Sys2Proof.Laws
end

