-- ==== Sys2Proof/Laws/PseudoOps.lean ====
section
/-! SUPPORT. The laws of the host's sequences: what going on, starting and resuming can do. -/

namespace Sys2Proof.Machine

section
variable {σ τ : Type} (f : σ → Host.Outcome τ Fault Refusal)
@[simp] theorem thenRun_next (s : σ) : thenRun (.next s) f = f s := rfl
@[simp] theorem thenRun_fault (e : Fault) : thenRun (.fault e) f = .fault e := rfl
@[simp] theorem thenRun_refused (e : Refusal) : thenRun (.refused e) f = .refused e := rfl
end

@[simp] theorem runUntilError_nil (s : State) :
    runUntilError [] s = .next { rest := [], state := s } := rfl
@[simp] theorem runUntilError_cons (i : Instr) (is : List Instr) (s : State) :
    runUntilError (i :: is) s = thenRun (exec i s) (goOn is) := rfl

/-- While the command has not returned, the host waits and keeps what remains (R220). -/
theorem goOn_of_in_flight {t : State} (h : t.phase ≠ .idle) (is : List Instr) :
    goOn is t = .next { rest := is, state := t } := by
  cases is <;> simp [goOn, h]

/-- An error ends the sequence (R101 to R105). -/
theorem goOn_of_err {t : State} (hp : t.phase = .idle) (he : lastIsErr t = true) (is : List Instr) :
    goOn is t = .next { rest := [], state := t } := by
  cases is <;> simp [goOn, hp, he]

/-- After Ok the commands that remain run. -/
theorem goOn_of_ok {t : State} (hp : t.phase = .idle) (he : lastIsErr t = false) (is : List Instr) :
    goOn is t = runUntilError is t := by
  cases is <;> simp [goOn, hp, he]

/-- A sequence that has ended stays as it is. -/
theorem resume_of_idle {q : Sequence} (h : q.state.phase = .idle) : resume q = .next q := by
  simp [resume, h]

/-- A command in flight goes on by one phase, and then the host. -/
theorem resume_of_in_flight {q : Sequence} (h : q.state.phase ≠ .idle) :
    resume q = goOn q.rest (phaseStep Config.hardware q.state) := by
  simp [resume, step, h]

theorem resumeFor_of_idle {q : Sequence} (h : q.state.phase = .idle) (n : Nat) :
    resumeFor n q = .next q := by
  induction n with
  | zero => rfl
  | succ n ih => rw [resumeFor, resume_of_idle h, thenRun_next, ih]

end Sys2Proof.Machine
end

