-- ==== Sys2Proof/Laws/Transport.lean ====
section
/-! SUPPORT. The laws of running phases, of the eight samples of a READ, and of one polling sample. -/

namespace Sys2Proof.Machine

variable (p : Params)

/-! ## Running phases -/

theorem phaseStep_idle {p : Params} {s : State} (h : s.phase = .idle) : phaseStep p s = s := by
  simp [phaseStep, h]

theorem runPhases_idle {p : Params} {s : State} (h : s.phase = .idle) (n : Nat) :
    runPhases p n s = s := by
  induction n with
  | zero => rfl
  | succ n ih => rw [runPhases, phaseStep_idle h, ih]

theorem runPhases_add (m n : Nat) (s : State) :
    runPhases p (m + n) s = runPhases p n (runPhases p m s) := by
  induction m generalizing s with
  | zero => simp [runPhases]
  | succ m ih => rw [Nat.succ_add, runPhases, runPhases, ih]

/-! ## The byte of a READ -/

/-- A sound idle chip with output enable asserted and the lines as inputs answers the eight samples with
the addressed cell (R52, R90). -/
theorem sampleByte_of_not_busy {p : Params} {s : State} (hb : s.busy = false) (hf : s.faulty = false)
    (hd : s.dir = 0x00#8) (hq : outputEnableN s.q = false) :
    sampleByte p s =
      (s.cell p (chipAddress p s.q),
        { s with trace := s.trace ++
          linesDown.map fun i => .sample i ((s.cell p (chipAddress p s.q)).getLsbD i) }) := by
  have one (s : State) (hb : s.busy = false) (hf : s.faulty = false) (hd : s.dir = 0x00#8)
      (hq : outputEnableN s.q = false) (i : Nat) := sample_of_not_busy (p := p) hb hf hd hq i
  simp only [sampleByte, linesDown, List.foldl, List.map]
  simp only [one, hb, hf, hd, hq, emit_busy, emit_faulty, emit_dir, emit_q, State.cell, emit_mem]
  refine Prod.ext ?_ ?_
  · apply BitVec.eq_of_getLsbD_eq
    intro j hj
    have bit (b : Bool) (j : Nat) : (bitWord 8 b).getLsbD j = (decide (j = 0) && b) := by
      cases b
      · simp [bitWord]
      · have h1 : bitWord 8 true = 1#8 := rfl
        rw [h1, BitVec.getLsbD_one]
        by_cases h : j = 0 <;> simp [h]
    interval_cases j <;> simp [bit, -BitVec.getLsbD_eq_getElem]
  · simp [emit, List.append_assoc, hd, hb, hf]

/-- The eight samples change nothing but what the tick changes, the draw counter and the trace. -/
theorem sampleByte_frame (s : State) : (sampleByte p s).2 = { s with
    mem := (sampleByte p s).2.mem
    busy := (sampleByte p s).2.busy
    cycleLeft := (sampleByte p s).2.cycleLeft
    overlapped := (sampleByte p s).2.overlapped
    draws := (sampleByte p s).2.draws
    trace := (sampleByte p s).2.trace } := by
  have fold : ∀ (l : List Nat) (acc : Byte × State),
      acc.2 = { s with
        mem := acc.2.mem, busy := acc.2.busy, cycleLeft := acc.2.cycleLeft
        overlapped := acc.2.overlapped, draws := acc.2.draws, trace := acc.2.trace } →
      let r := l.foldl (fun (acc : Byte × State) i =>
        let r := sample p i acc.2
        ((acc.1 <<< 1) ||| bitWord 8 r.1, r.2)) acc
      r.2 = { s with
        mem := r.2.mem, busy := r.2.busy, cycleLeft := r.2.cycleLeft
        overlapped := r.2.overlapped, draws := r.2.draws, trace := r.2.trace } := by
    intro l
    induction l with
    | nil => exact fun acc h => h
    | cons i l ih =>
      intro acc h
      rw [List.foldl_cons]
      apply ih
      rw [sample_frame p acc.2 i, h]
  exact fold linesDown (0#8, s) rfl

/-- The trace of the eight samples: D7 first, each with the bit of the byte returned (R125, R90). -/
theorem sampleByte_trace (s : State) :
    (sampleByte p s).2.trace =
      s.trace ++ linesDown.map fun i => .sample i ((sampleByte p s).1.getLsbD i) := by
  have bit (b : Bool) (j : Nat) : (bitWord 8 b).getLsbD j = (decide (j = 0) && b) := by
    cases b
    · simp [bitWord]
    · rw [show bitWord 8 true = 1#8 from rfl, BitVec.getLsbD_one]
      by_cases h : j = 0 <;> simp [h]
  have one (s : State) (i : Nat) :
      (sample p i s).2.trace = s.trace ++ [.sample i (sample p i s).1] := by
    rw [sample_frame]
  simp only [sampleByte, linesDown, List.foldl, List.map, one, List.append_assoc,
    List.singleton_append]
  simp [bit, -BitVec.getLsbD_eq_getElem]

/-- READ in range is its three phases (R125). -/
theorem readCommand_phases {a : Address} (ha : inRange p a) (s : State) :
    readCommand p a s = rdSample p (rdLatch p (rdDir p (startRead a s))) := by
  rw [readCommand, if_pos ha]
  rfl

/-- The first six phases of WRITE (R128, R140). -/
theorem writePhases (a : Address) (v : Byte) (s : State) :
    runPhases p 6 (startWrite a v s) =
      wcLatch p (wcDir p (wrPulse p (wrDrive p (wrDir p (wrLatch p (startWrite a v s)))))) := rfl

/-! ## One polling sample (R140) -/

/-- The three ends of WC_SAMPLE: a match, the bound, or a wait. -/
theorem wcSample_cases (s : State) :
    let r := sample p 7 s
    let t := { r.2 with polls := s.polls + 1 }
    (r.1 = s.opVal.getLsbD 7 ∧ wcSample p s = answer .okUnit t) ∨
    (r.1 ≠ s.opVal.getLsbD 7 ∧ pollBoundReached p (s.polls + 1) = true ∧
      wcSample p s = raise .writeTimeout (commandWord 2#4 s.opAddr s.opVal)
        (.timeout s.opAddr s.opVal (s.polls + 1)) (unsettle p t)) ∨
    (r.1 ≠ s.opVal.getLsbD 7 ∧ pollBoundReached p (s.polls + 1) = false ∧
      wcSample p s = { t with phase := .wcWait }) := by
  obtain ⟨n, hn⟩ := sample_state p s 7
  have hp : (sample p 7 s).2.polls = s.polls := by rw [hn]; simp
  have ha : (sample p 7 s).2.opAddr = s.opAddr := by rw [hn]; simp
  have hv : (sample p 7 s).2.opVal = s.opVal := by rw [hn]; simp
  simp only [wcSample, hp, ha, hv]
  by_cases h : (sample p 7 s).1 = s.opVal.getLsbD 7
  · exact .inl ⟨h, by rw [if_pos h]⟩
  · rw [if_neg h]
    cases hb : pollBoundReached p (s.polls + 1)
    · exact .inr (.inr ⟨h, rfl, by simp⟩)
    · exact .inr (.inl ⟨h, rfl, by simp⟩)

end Sys2Proof.Machine
end

