-- ==== Sys2Proof/Tests/Slice0.lean ====
section
/-! SUPPORT. Tests: the spec's own words and vectors (95_test_vectors.md), each about one step or one
command on a small state; and for every statement with hypotheses a witness that meets them all. -/

namespace Sys2Proof.Tests

open Sys2Proof.Machine

/-! ## Small states and configurations -/

/-- The digit table of I-19, common cathode; the common-anode row is not used by a test. -/
def digitRow : DigitVariant → BitVec 4 → Byte
  | .commonCathode, n =>
    [0x7E#8, 0x30#8, 0x6D#8, 0x79#8, 0x33#8, 0x5B#8, 0x5F#8, 0x70#8, 0x7F#8, 0x7B#8, 0x77#8, 0x1F#8,
      0x4E#8, 0x3D#8, 0x4F#8, 0x47#8].getD n.toNat 0x00#8
  | .commonAnode, _ => 0x00#8

/-- The candidate microprogram of I-22, with NOP = 0 and the reserved opcodes 9 to 13. -/
def candidate : Microprogram where
  activeSteps := fun o =>
    if o = 1#4 then [0x4800#16, 0x1200#16]
    else if o = 2#4 then [0x4800#16, 0x1020#16, 0x0281#16]
    else if o = 3#4 then [0x4800#16, 0x1020#16, 0x02C1#16]
    else if o = 4#4 then [0x4800#16, 0x2100#16]
    else if o = 5#4 then [0x0A00#16]
    else if o = 6#4 then [0x0802#16]
    else if o = 14#4 then [0x0110#16]
    else if o = 15#4 then [0x8000#16]
    else []
  nopOpcode := 0#4
  reservedOpcodes := [9#4, 10#4, 11#4, 12#4, 13#4]

/-- A configuration with a poll bound (its predecessor, or none) and a chip whose write cycles outlast the
given number of bus events; every draw of a line is 1, of a cell 0x5A, and memory starts as 0xEE. -/
def config (boundPred : Option Nat) (events : Option Nat) : Params where
  addrBits := 11
  cwBit := Config.cwBit
  pollMaxPred := boundPred
  tWp := 100
  tPoll := 10
  digits := digitRow
  variant := .commonCathode
  micro := candidate
  initialByte := fun _ => 0xEE#8
  lineBit := fun _ => true
  cycleEvents := fun _ => events
  cellByte := fun _ => 0x5A#8

/-- The machine after boot with one listed cell. -/
def withCell (a : Nat) (v : Byte) : State := { State.reset with mem := [(a, v)] }

/-- The machine after boot with a write of v to a in progress that never ends. -/
def stuck (a : CellAddress) (v : Byte) : State :=
  { State.reset with busy := true, pendAddr := a, pendVal := v }

/-- The machine after boot with one host word to run. -/
def offering (w : CommandWord) : State := { State.reset with pending := [w] }

/-- A WRITE in flight in its pulse phase, on a chip still busy with another write. -/
def pulsing : State :=
  { stuck 0x010#15 0x00#8 with
    phase := .wrPulse, dir := 0xFF#8, q := 0x8020#16, dout := 0x34#8, opAddr := 0x020#16, opVal := 0x34#8 }

/-- A WRITE in flight in its poll loop, on the busy chip it is writing. -/
def polling : State :=
  { stuck 0x010#15 0x00#8 with phase := .wcSample, q := 0x0010#16, opAddr := 0x010#16 }

/-! ## Well-formedness -/

theorem test_wellFormed_refuses : ¬ (Instr.setAddress 0x800#16 true).WellFormed Config.hardware := by decide
theorem test_wellFormed_takes : (Instr.setAddress 0x7FF#16 true).WellFormed Config.hardware ∧
    (Instr.read 0xFFFF#16).WellFormed Config.hardware := by decide

/-- R8: at ROM_SIZE = 1024 the address 0x400 has no latch word, and a latch word with bit 10 is reserved. -/
theorem test_other_rom_size :
    let p : Params := { config none none with addrBits := 10 }
    ¬ (Instr.setAddress 0x400#16 true).WellFormed p ∧ p.romSize = 1024 ∧
    decode p (.latch 0x0400#16) = .error .latchRsvdNotZero ∧
    decode p (.latch 0x83FF#16) = .ok (.setAddress 0x3FF#16 false) := by decide

/-! ## Decoding, from the words of L2.1, L2.2 and R119 -/

theorem test_decode_read : decode Config.hardware (.command 0x10012300#32) = .ok (.read 0x123#16) ∧
    decode Config.hardware (.command 0x1007FF00#32) = .ok (.read 0x7FF#16) ∧
    decode Config.hardware (.command 0x10080000#32) = .ok (.read 0x800#16) ∧
    decode Config.hardware (.command 0x10FFFF00#32) = .ok (.read 0xFFFF#16) := by decide
theorem test_decode_write : decode Config.hardware (.command 0x200123A5#32) = .ok (.write 0x123#16 0xA5#8) ∧
    decode Config.hardware (.command 0x20080000#32) = .ok (.write 0x800#16 0x00#8) ∧
    decode Config.hardware (.command 0x2001BA08#32) = .ok (.write 0x1BA#16 0x08#8) := by decide
theorem test_decode_generators : decode Config.hardware (.command 0x30000000#32) = .ok .genDisplay ∧
    decode Config.hardware (.command 0x40000000#32) = .ok .genMicrocode := by decide
theorem test_decode_illegal : decode Config.hardware (.command 0x100123A5#32) = .error .valueNotZero ∧
    decode Config.hardware (.command 0x21012300#32) = .error .rsvdNotZero ∧
    decode Config.hardware (.command 0x1F080000#32) = .error .rsvdNotZero ∧
    decode Config.hardware (.command 0x30000001#32) = .error .valueNotZero ∧
    decode Config.hardware (.command 0x40000100#32) = .error .addrNotZero ∧
    decode Config.hardware (.command 0x00000000#32) = .error .reservedOp ∧
    decode Config.hardware (.command 0x50000000#32) = .error .reservedOp ∧
    decode Config.hardware (.command 0xF0000000#32) = .error .reservedOp := by decide
theorem test_decode_latch : decode Config.hardware (.latch 0x8123#16) = .ok (.setAddress 0x123#16 false) ∧
    decode Config.hardware (.latch 0x0123#16) = .ok (.setAddress 0x123#16 true) ∧
    decode Config.hardware (.latch 0x87FF#16) = .ok (.setAddress 0x7FF#16 false) ∧
    decode Config.hardware (.latch 0x80FF#16) = .ok (.setAddress 0x0FF#16 false) ∧
    decode Config.hardware (.latch 0x0800#16) = .error .latchRsvdNotZero := by decide
theorem test_encode : encode (.write 0x123#16 0xA5#8) = .command 0x200123A5#32 ∧
    encode (.setAddress 0x123#16 false) = .latch 0x8123#16 := by decide

/-! ## READ (L2.3) -/

/-- R-1. -/
theorem test_read_idle :
    let t := readCommand (config none none) 0x123#16 (withCell 0x123 0xA5#8)
    t.results = [.okByte 0xA5#8] ∧ t.q = 0x0123#16 ∧ t.trace =
      [.dirIn, .latch 0x0123#16, .sample 7 true, .sample 6 false, .sample 5 true, .sample 4 false,
        .sample 3 false, .sample 2 true, .sample 1 false, .sample 0 true] := by decide +kernel
/-- R-4: D7 is the complement of the written bit, the other seven are draws (all 1 here). -/
theorem test_read_busy :
    (readCommand (config none none) 0x010#16 (stuck 0x010#15 0x80#8)).results =
      [.okByte 0x7F#8] := by decide +kernel

/-! ## WRITE (L2.4) -/

/-- W-1: two busy samples. -/
theorem test_write_ok :
    let t := writeCommand (config (some 7) (some 5)) 0x123#16 0xA5#8 State.reset
    t.results = [.okUnit] ∧ t.polls = 3 ∧ t.mem = [(0x123, 0xA5#8)] ∧ t.trace =
      [.latch 0x8123#16, .dirOut, .drive 0xA5#8, .weLow, .waitWp, .weHigh, .dirIn, .latch 0x0123#16,
        .sample 7 false, .waitPoll, .sample 7 false, .waitPoll, .sample 7 true] := by decide +kernel
/-- W-5: the bound is reached, the chip is still busy, and the cell is unspecified (here a draw of 0x5A). -/
theorem test_write_timeout :
    let t := writeCommand (config (some 2) (some 7)) 0x010#16 0x00#8 State.reset
    t.results = [.err .writeTimeout (.timeout 0x010#16 0x00#8 3)] ∧ t.busy = true ∧
    t.mem = [(0x010, 0x5A#8)] ∧ t.errlog = [ErrEntry.mk .writeTimeout 0x20001000#32 (.timeout 0x010#16 0x00#8 3)] := by
  decide +kernel

/-! ## SET_ADDRESS (L2.2) -/

theorem test_setAddress_latches :
    let t := setAddress (config none none) 0x123#16 false State.reset
    t.sr = 0x8123#16 ∧ t.q = 0x8123#16 ∧ t.trace = [.latch 0x8123#16] := by decide
/-- The pin level of SET_ADDRESS(0x7FF, false), from a register that holds ones. -/
theorem test_pins :
    let t := (latchPins 0x87FF#16).foldl applyPin { State.reset with sr := 0xFFFF#16 }
    t.sr = 0x87FF#16 ∧ t.q = 0x87FF#16 ∧ t.ser = true ∧ t.srclk = false ∧ t.rclk = false := by
  decide +kernel

/-! ## GEN_DISPLAY (L2.5) -/

theorem test_display_minus_five :
    displayByte (config none none) 0x4FB#11 = 0x5B#8 ∧ displayByte (config none none) 0x5FB#11 = 0x7E#8 ∧
    displayByte (config none none) 0x7FB#11 = 0x01#8 ∧ displayByte (config none none) 0x309#11 = 0x00#8 := by
  decide
theorem test_display_ends :
    displayByte (config none none) 0x2FF#11 = 0x6D#8 ∧ displayByte (config none none) 0x480#11 = 0x7F#8 ∧
    displayByte (config none none) 0x680#11 = 0x30#8 ∧ displayByte (config none none) 0x77F#11 = 0x00#8 := by
  decide

/-! ## GEN_MICROCODE (L2.6) -/

theorem test_microcode_overrides :
    microByte Config.hardware (baseTable Config.hardware candidate) 0x13A#10 = 0x02#8 ∧ microByte Config.hardware (baseTable Config.hardware candidate) 0x1BA#10 = 0x08#8 ∧
    microByte Config.hardware (baseTable Config.hardware candidate) 0x242#10 = 0x02#8 ∧ microByte Config.hardware (baseTable Config.hardware candidate) 0x142#10 = 0x00#8 := by
  decide
theorem test_microcode_rows :
    microByte Config.hardware (baseTable Config.hardware candidate) 0x08A#10 = 0x48#8 ∧ microByte Config.hardware (baseTable Config.hardware candidate) 0x014#10 = 0x81#8 ∧
    microByte Config.hardware (baseTable Config.hardware candidate) 0x09C#10 = 0x02#8 ∧ microByte Config.hardware (baseTable Config.hardware candidate) 0x3FF#10 = 0x00#8 := by
  decide

/-! ## Witnesses: encodings and steps -/

theorem witness_step_runs_decoded : (offering 0x10012300#32).phase = .idle ∧
    (offering 0x10012300#32).latchPort = none ∧ (offering 0x10012300#32).pending = 0x10012300#32 :: [] ∧
    decode Config.hardware (.command 0x10012300#32) = .ok (.read 0x123#16) := by decide
theorem witness_step_runs_latch_word :
    let s : State := { State.reset with latchPort := some (latchWord 0x7FF#16 false) }
    s.phase = .idle ∧ inRange Config.hardware 0x7FF#16 ∧ s.latchPort = some (latchWord 0x7FF#16 false) := by decide
theorem witness_illegal_op : (offering 0x50000000#32).phase = .idle ∧
    (offering 0x50000000#32).latchPort = none ∧ (offering 0x50000000#32).pending = 0x50000000#32 :: [] ∧
    (0x50000000#32).extractLsb' 28 4 ≠ 1#4 ∧ (0x50000000#32).extractLsb' 28 4 ≠ 2#4 ∧
    (0x50000000#32).extractLsb' 28 4 ≠ 3#4 ∧ (0x50000000#32).extractLsb' 28 4 ≠ 4#4 := by decide
theorem witness_illegal_rsvd : (0x21012300#32).extractLsb' 24 4 ≠ 0#4 := by decide
theorem witness_illegal_read_value : (0x10012301#32).extractLsb' 28 4 = 1#4 ∧
    (0x10012301#32).extractLsb' 0 8 ≠ 0#8 := by decide
theorem witness_illegal_generator : (0x40000100#32).extractLsb' 28 4 = 4#4 ∧
    (0x40000100#32).extractLsb' 8 16 ≠ 0#16 ∧ (0x30000001#32).extractLsb' 28 4 = 3#4 ∧
    (0x30000001#32).extractLsb' 0 8 ≠ 0#8 := by decide
theorem witness_waiting : State.reset.phase = .idle ∧ State.reset.latchPort = none ∧
    State.reset.pending = [] ∧ State.reset.busy = false := by decide
theorem witness_in_flight : polling.phase ≠ .idle := by decide
theorem witness_reserved_latch_bit :
    let s : State := { State.reset with latchPort := some 0x0800#16 }
    s.phase = .idle ∧ s.latchPort = some 0x0800#16 ∧ (0x0800#16).extractLsb' 11 4 ≠ 0#4 := by decide

/-! ## Witnesses: SET_ADDRESS and the chip -/

theorem witness_setAddress : Memory.wf Config.hardware (stuck 0x010#15 0x00#8).mem ∧
    (0x011#15 : CellAddress) ≠ (stuck 0x010#15 0x00#8).pendAddr ∧ inRange Config.hardware 0x7FF#16 ∧
    State.reset.busy = false := ⟨memory_wf_nil, by decide, by decide, rfl⟩
/-- The two sides of the latch pulse's rising edge, the 50th line change. -/
theorem witness_pins : State.reset.srclk = false ∧ (49 : Nat) ≤ 49 ∧ (50 : Nat) ≤ 50 ∧
    (latchPins 0x8123#16)[49]? = some (.rclk true) := by decide
/-- The clauses of `SampleLevels`: a driven line, a floating line, a faulty chip, D7 of a busy chip, another
line of it, an overlapped write, an idle chip. -/
theorem witness_sample_levels :
    pulsing.dir.getLsbD 7 = true ∧ outputEnableN pulsing.q = true ∧
    (let s : State := { polling with faulty := true }
     s.faulty = true ∧ s.dir.getLsbD 7 = false ∧ outputEnableN s.q = false) ∧
    (polling.faulty = false ∧ polling.busy = true ∧ polling.cycleLeft ≠ some 0 ∧ polling.dir.getLsbD 7 = false ∧
      outputEnableN polling.q = false ∧ polling.overlapped = false ∧
      chipAddress Config.hardware polling.q = polling.pendAddr) ∧
    (polling.dir.getLsbD 0 = false ∧ (0 : Nat) ≠ 7) ∧
    (let s : State := { polling with overlapped := true }; s.busy = true ∧ s.overlapped = true) ∧
    (State.reset.dir.getLsbD 7 = false ∧ outputEnableN State.reset.q = false ∧
      State.reset.busy = false) := by decide
/-- The three cases of a waiting step on a busy chip. -/
theorem witness_cycle_ends (c : Option Nat) :
    let s : State := { stuck 0x7FF#15 0x12#8 with cycleLeft := c }
    s.phase = .idle ∧ s.latchPort = none ∧ s.pending = [] ∧ s.busy = true ∧ s.overlapped = false ∧
      Memory.wf Config.hardware s.mem ∧ s.cycleLeft = c :=
  ⟨rfl, rfl, rfl, rfl, rfl, memory_wf_nil, rfl⟩
/-- A pulse on a busy chip, whatever of its cycle is left: with 3 or none it outlasts the pulse, with 2 it
ends at the pulse's last event. -/
theorem witness_overlapped (c : Option Nat) :
    let s : State := { pulsing with cycleLeft := c }
    s.phase = .wrPulse ∧ s.busy = true ∧ Memory.wf Config.hardware s.mem ∧ s.cycleLeft = c ∧
      s.overlapped = false ∧ s.pendAddr ≠ chipAddress Config.hardware s.q :=
  ⟨rfl, rfl, memory_wf_nil, rfl, rfl, (by decide : (0x010#15) ≠ chipAddress Config.hardware 0x8020#16)⟩
/-- What R56 leaves in the two cells, in a configuration whose cell draws are 0x5A. -/
theorem test_overlapped_cells :
    (phaseStep (config none none) pulsing).mem = [(0x010, 0x5A#8), (0x020, 0x5A#8)] := by decide

/-! ## Witnesses: READ and WRITE -/

theorem witness_read_write_idle : State.reset.phase = .idle ∧ inRange Config.hardware 0x000#16 ∧ inRange Config.hardware 0x7FF#16 ∧
    State.reset.busy = false ∧ State.reset.faulty = false ∧ Memory.wf Config.hardware State.reset.mem :=
  ⟨rfl, by decide, by decide, rfl, rfl, memory_wf_nil⟩
/-- READ and WRITE of a faulty chip. -/
theorem witness_faulty :
    let s : State := { State.reset with faulty := true }
    s.phase = .idle ∧ s.faulty = true ∧ Memory.wf Config.hardware s.mem := ⟨rfl, rfl, memory_wf_nil⟩
/-- READ on a busy chip whose cycle ends right after it: of the pending address, and of another. -/
theorem witness_read_busy :
    let s : State := { stuck 0x010#15 0x80#8 with cycleLeft := some 10 }
    s.phase = .idle ∧ inRange Config.hardware 0x010#16 ∧ inRange Config.hardware 0x020#16 ∧ s.busy = true ∧ s.overlapped = false ∧
      s.faulty = false ∧ s.cycleLeft = some 10 ∧ s.pendAddr = (0x010#16).setWidth 15 ∧
      s.pendAddr ≠ (0x020#16).setWidth 15 := by decide
/-- Where the two clauses of `InvalidAddressRaised` meet. -/
theorem witness_out_of_range : State.reset.phase = .idle ∧ 2048 ≤ (0x800#16 : Address).toNat ∧
    2048 ≤ (0xFFFF#16 : Address).toNat ∧ (0x7FF#16 : Address).toNat ≤ 2047 := by decide
/-- Below the bound, with k = POLL_MAX - 1 (W-4), and in the unbounded loop. -/
theorem witness_polls_until_match :
    (config (some 2) (some 5)).cycleEvents State.reset.draws = some 5 ∧
    (config (some 2) (some 5)).pollMax = some 3 ∧ busySamples 5 < 3 ∧ busySamples 5 = 2 ∧
    (config none (some 5)).pollMax = none ∧ Memory.wf (config none (some 5)) State.reset.mem :=
  ⟨rfl, rfl, by decide, rfl, rfl, memory_wf_nil⟩
/-- At the bound, k = POLL_MAX (W-5), and on a chip that never finishes (W-6). -/
theorem witness_timeout :
    (config (some 2) (some 7)).pollMax = some 3 ∧ 3 ≤ busySamples 7 ∧
    (config (some 2) (some 7)).cycleEvents State.reset.draws = some 7 ∧
    (config (some 2) none).pollMax = some 3 ∧ (config (some 2) none).cycleEvents State.reset.draws = none :=
  by decide
theorem witness_write_then_read :
    State.reset.phase = .idle ∧ inRange (config (some 7) (some 5)) 0x123#16 ∧
    State.reset.busy = false ∧ State.reset.faulty = false ∧
    Memory.wf (config (some 7) (some 5)) State.reset.mem ∧
    (writeCommand (config (some 7) (some 5)) 0x123#16 0xA5#8 State.reset).results =
      State.reset.results ++ [.okUnit] :=
  ⟨rfl, by decide, rfl, rfl, memory_wf_nil, by decide +kernel⟩
theorem witness_hang : (config none none).pollMax = none ∧ polling.phase = .wcSample ∧
    polling.busy = true ∧ polling.cycleLeft = none ∧ polling.overlapped = false ∧
    polling.faulty = false ∧ polling.dir = 0x00#8 ∧ outputEnableN polling.q = false ∧
    chipAddress Config.hardware polling.q = polling.pendAddr ∧ polling.pendVal = polling.opVal := by decide
theorem witness_pulse : pulsing.phase = .wrPulse := rfl

/-! ## Witnesses: the images -/

/-- Two configurations that agree on the ten digits, and not on entry 10. -/
theorem witness_digits_agree :
    let p := config none none
    let p' : Params := { p with digits := fun v n => if n = 10#4 then 0x00#8 else digitRow v n }
    (∀ n, n < 10 → digitDecode p n = digitDecode p' n) ∧ digitDecode p 10 ≠ digitDecode p' 10 := by
  refine ⟨fun n h => ?_, by decide⟩
  interval_cases n <;> rfl
theorem witness_admitted :
    BaseTable.Admitted Config.hardware (baseTable Config.hardware candidate) candidate.nopOpcode candidate.reservedOpcodes ∧
    opcodeJC ∉ candidate.reservedOpcodes ∧ opcodeJZ ∉ candidate.reservedOpcodes := by decide
/-- A table with only the fetch steps and one extra word. -/
def patched (o : Opcode) (s : MicroStep) (w : ControlWord) : BaseTable := fun o' s' =>
  if o' = o ∧ s' = s then w else baseTable Config.hardware candidate o' s'
theorem witness_broken_tables :
    (patched 7#4 3#3 0x0001#16) 7#4 3#3 = 0x0001#16 ∧
    ((patched 1#4 2#3 0x0000#16) 1#4 2#3 = 0x0000#16 ∧
      (patched 1#4 2#3 0x0000#16) 1#4 3#3 = 0x1200#16) ∧
    (patched 4#4 0#3 0x0000#16) 4#4 0#3 = 0x0000#16 ∧
    ¬ BaseTable.Admitted Config.hardware (patched 7#4 3#3 0x0001#16) 0#4 [] := by decide
/-- Both override slots of R182 do differ. -/
theorem witness_variants :
    ucode Config.hardware (baseTable Config.hardware candidate) (flagIndex false true) 7#4 2#3 ≠ baseTable Config.hardware candidate 7#4 2#3 ∧
    ucode Config.hardware (baseTable Config.hardware candidate) (flagIndex true false) 8#4 2#3 ≠ baseTable Config.hardware candidate 8#4 2#3 := by decide

/-! ## Witnesses: invariants -/

/-- A safe state other than the one after reset, with a step. -/
theorem witness_safe_step :
    SafeState Config.hardware (offering 0x00000000#32) ∧
    step (offering 0x00000000#32) =
      .next { State.reset with
        errlog := [{ code := .illegalCommand, command := 0#32, info := .word 0#32 }]
        results := [.err .illegalCommand (.word 0#32)] } :=
  ⟨⟨memory_wf_nil, ⟨rfl, rfl, rfl⟩, rfl, .inl rfl, by decide, fun _ => ⟨rfl, rfl⟩⟩, rfl⟩
/-- A safe state in the middle of a WRITE, with the lines as outputs. -/
theorem witness_safe_pulse : SafeState Config.hardware pulsing ∧ pulsing.dir = 0xFF#8 :=
  ⟨⟨memory_wf_nil, ⟨rfl, rfl, rfl⟩, ⟨rfl, by decide, rfl⟩, .inr (by decide), by decide,
    fun h => absurd h (by decide)⟩, rfl⟩
/-- A run reaches a state whose lines are outputs, in the middle of a WRITE. -/
theorem witness_reachable : ∃ s, Reachable s ∧ s.phase = .wrDrive ∧ s.dir = 0xFF#8 :=
  ⟨_, .phase _ (.phase _ (.startWrite State.reset 0x7FF#16 0x12#8 .reset rfl (by decide))), rfl, rfl⟩
/-- A step that changes a cell: the end of a write cycle. -/
theorem witness_cell_changes :
    let s : State := { stuck 0x005#15 (Config.hardware.initialByte 5 + 1#8) with cycleLeft := some 0 }
    SafeState Config.hardware s ∧ step s = .next (finishCycle Config.hardware s) ∧
      (finishCycle Config.hardware s).cell Config.hardware 0x005#15 ≠ s.cell Config.hardware 0x005#15 := by
  refine ⟨⟨memory_wf_nil, ⟨rfl, rfl, rfl⟩, rfl, .inl rfl, by decide, by simp [ChipAtRest, stuck]⟩, rfl, ?_⟩
  simp [State.cell, stuck, Memory.write, Memory.put, Memory.read, State.reset]
/-- A step that changes the cell of the write it starts: the pulse of a WRITE to 0x020 on a busy chip, where
the cell held another byte than the draw it gets. -/
theorem witness_started_cell_changes :
    let old := if Config.cellByte 1 = Config.initialByte 0x20 then [(0x20, Config.initialByte 0x20 + 1#8)] else []
    let s : State := { pulsing with mem := old }
    let t := phaseStep Config.hardware s
    SafeState Config.hardware s ∧ step s = .next t ∧ t.pendAddr = 0x020#15 ∧ s.pendAddr ≠ 0x020#15 ∧
      t.trace = s.trace ++ [.weLow, .waitWp, .weHigh] ∧
      t.cell Config.hardware 0x020#15 ≠ s.cell Config.hardware 0x020#15 := by
  intro old s t
  have hwf : Memory.wf Config.hardware old := by
    show Memory.wf Config.hardware (if _ then _ else _)
    split
    · refine ⟨by simp, fun x hx => ?_⟩
      obtain rfl : x = (0x20, Config.initialByte 0x20 + 1#8) := by simpa using hx
      exact ⟨by decide, by simp [Config.hardware]⟩
    · exact memory_wf_nil
  refine ⟨⟨hwf, ⟨rfl, rfl, rfl⟩, ⟨rfl, by decide, rfl⟩, .inr (by decide), by decide,
    fun h => absurd h (by simp [s, pulsing, stuck])⟩, rfl, ?_, by decide, rfl, ?_⟩
  · exact (show t.pendAddr = chipAddress Config.hardware 0x8020#16 from rfl).trans (by decide)
  have ht : t.cell Config.hardware 0x020#15 = Config.cellByte 1 := by
    show Memory.read _ (Memory.write _ (Memory.write _ old _ _) _ _) _ = _
    rw [memory_read_write (memory_write_sorted hwf.1 _ _)]
    exact if_pos (show _ = (chipAddress Config.hardware 0x8020#16).toNat by decide)
  have hs : s.cell Config.hardware 0x020#15 =
      if Config.cellByte 1 = Config.initialByte 0x20 then Config.initialByte 0x20 + 1#8
      else Config.initialByte 0x20 := by
    show Memory.read _ (if _ then _ else _) _ = _
    split <;> simp [Memory.read, Config.hardware]
  rw [ht, hs]
  split
  · rename_i h; rw [h]; simp
  · assumption
theorem witness_canonical : Memory.wf (config none none) [(3, 0x01#8)] := by decide

/-! ## Witnesses: pseudo-operations -/

theorem witness_burn : State.reset.phase = .idle ∧ State.reset.busy = false ∧
    State.reset.faulty = false ∧ Memory.wf Config.hardware State.reset.mem ∧ [0x12#8, 0x34#8].length ≤ Config.hardware.romSize :=
  ⟨rfl, rfl, rfl, memory_wf_nil, by decide⟩
/-- A WRITE in flight whose chip has finished: its next step returns Ok, and the host issues what remains
(R105, R220). -/
theorem test_resume_goes_on :
    let s : State := { polling with busy := false, mem := [(0x010, 0x00#8)] }
    (∃ t, step s = .next t ∧ t.phase = .idle ∧ lastIsErr t = false) ∧
    ∃ t, resume { rest := [.read 0x800#16, .genDisplay], state := s } = .next { rest := [], state := t } ∧
      t.results = [.okUnit, .err .invalidAddress (.address 0x800#16)] := ⟨⟨_, rfl, rfl, rfl⟩, _, rfl, rfl⟩
/-- A WRITE in flight that stays in flight, or whose next step is a timeout, by the poll bound. -/
theorem witness_resume :
    (Config.hardware.pollMax = none → (phaseStep Config.hardware polling).phase ≠ .idle) ∧
    ∀ m, Config.hardware.pollMax = some m →
      let t := phaseStep Config.hardware { polling with polls := m }
      t.phase = .idle ∧ lastIsErr t = true := by
  have hq : outputEnableN polling.q = false := by decide
  have ha : chipAddress Config.hardware polling.q = polling.pendAddr := by decide
  have key (s : State) (hb : s.busy = true) (hc : s.cycleLeft = none) (ho : s.overlapped = false)
      (hf : s.faulty = false) (hd : s.dir = 0x00#8) (hq : outputEnableN s.q = false)
      (ha : chipAddress Config.hardware s.q = s.pendAddr) (hv : s.pendVal = 0x00#8) :
      sample Config.hardware 7 s = (true, emit (.sample 7 true) s) := by
    simp [sample, chipTick_of_never hc, lineLevel_polling hb ho hf hd hq ha, hv]
  have hs (n : Nat) := key { polling with polls := n } rfl rfl rfl rfl rfl hq ha rfl
  have hp (n : Nat) : phaseStep Config.hardware { polling with polls := n } =
      wcSample Config.hardware { polling with polls := n } := rfl
  refine ⟨fun h => ?_, fun m h => ?_⟩
  · rw [show polling = { polling with polls := 0 } from rfl, hp, wcSample, hs]
    simp [polling, stuck, State.reset, pollBoundReached, h]
  · rw [hp, wcSample, hs]
    simp [polling, stuck, State.reset, pollBoundReached, h, lastIsErr, Result.isErr]
theorem witness_dump : State.reset.phase = .idle ∧ State.reset.busy = false ∧
    State.reset.faulty = false ∧
    (0x7F0#16 : Address).toNat + 16 ≤ Config.hardware.romSize := by decide

end Sys2Proof.Tests
end

section
/-! PROOFS of the scope family: the step that takes a host command word (O6), the configured base table
(O36), and ERASE as a BURN (O59). -/

namespace Sys2Proof.Machine

/-! ## Taking the host's next word (R93, R220) -/

/-- At IDLE with an empty latch port, a step issues the first word of the host's list. -/
theorem step_of_command {s : State} {w : CommandWord} {ws : List CommandWord} (hp : s.phase = .idle)
    (hl : s.latchPort = none) (hw : s.pending = w :: ws) :
    step s = issue w { s with pending := ws } := by
  simp [step, hp, hl, hw]

/-- Issuing a word that decodes is exec of what it decodes to. -/
theorem issue_of_decode_ok {w : CommandWord} {i : Instr}
    (h : decode Config.hardware (.command w) = .ok i) (s : State) : issue w s = exec i s := by
  simp [issue, h]

/-- Settles O6: the step issues the word, and issuing it is exec of the decoded instruction. -/
theorem stepRunsDecoded : Obligations.StepRunsDecoded := by
  intro s w ws i hp hl hw hi
  rw [step_of_command hp hl hw, issue_of_decode_ok hi]

/-! ## The table of a microprogram (R179, R180) -/

section
variable (p : Params) (m : Microprogram) (o : Opcode)

@[simp] theorem baseTable_step_zero : baseTable p m o 0#3 = fetch0 p := rfl
@[simp] theorem baseTable_step_one : baseTable p m o 1#3 = fetch1 p := rfl

/-- From step 2 on the table holds the row's words, then zeros. -/
theorem baseTable_of_two_le {s : MicroStep} (h : 2#3 ≤ s) :
    baseTable p m o s = (rowSteps m o).getD (s.toNat - 2) 0#16 := by
  have h0 : s ≠ 0#3 := by rintro rfl; exact absurd h (by decide)
  have h1 : s ≠ 1#3 := by rintro rfl; exact absurd h (by decide)
  simp [baseTable, h0, h1]

theorem rowSteps_length_le : (rowSteps m o).length ≤ 5 := by
  unfold rowSteps
  split
  · simp
  · exact List.length_take_le _ _

end

/-- JC, JZ, NOP and the reserved opcodes have no words after the fetch steps. -/
theorem rowSteps_eq_nil {m : Microprogram} {o : Opcode}
    (h : o = opcodeJC ∨ o = opcodeJZ ∨ o = m.nopOpcode ∨ o ∈ m.reservedOpcodes) :
    rowSteps m o = [] := if_pos h

theorem ne_zero_of_mem_rowSteps {m : Microprogram} {o : Opcode} {w : ControlWord}
    (h : w ∈ rowSteps m o) : w ≠ 0#16 := by
  unfold rowSteps at h
  split at h
  · simp at h
  · simpa using List.mem_takeWhile_imp (List.mem_of_mem_take h)

/-- A row's word is non-zero exactly where the row has one, since no word of a row is zero. -/
theorem rowSteps_getD_ne_zero_iff (m : Microprogram) (o : Opcode) (n : Nat) :
    (rowSteps m o).getD n 0#16 ≠ 0#16 ↔ n < (rowSteps m o).length := by
  by_cases hn : n < (rowSteps m o).length
  · rw [List.getD_eq_getElem _ _ hn]
    exact iff_of_true (ne_zero_of_mem_rowSteps (List.getElem_mem hn)) hn
  · rw [List.getD_eq_default _ _ (by omega)]
    exact iff_of_false (by simp) hn

/-- R180 (b): the active steps of an opcode are as many as its row has words. -/
theorem baseTable_activeUpTo (p : Params) (m : Microprogram) (o : Opcode) :
    BaseTable.activeUpTo (baseTable p m) o (rowSteps m o).length := by
  intro s hs
  have hs' : 2 ≤ s.toNat := hs
  rw [baseTable_of_two_le p m o hs, rowSteps_getD_ne_zero_iff]
  omega

/-- R180 (c): an opcode without words has no step after the fetch steps. -/
theorem baseTable_noSteps (p : Params) {m : Microprogram} {o : Opcode}
    (h : o = opcodeJC ∨ o = opcodeJZ ∨ o = m.nopOpcode ∨ o ∈ m.reservedOpcodes) :
    BaseTable.noSteps (baseTable p m) o := by
  intro s hs
  rw [baseTable_of_two_le p m o hs, rowSteps_eq_nil h, List.getD_nil]

/-- R180 in full, for a microprogram that reserves neither JC nor JZ. -/
theorem baseTable_admitted (p : Params) {m : Microprogram} (hjc : opcodeJC ∉ m.reservedOpcodes)
    (hjz : opcodeJZ ∉ m.reservedOpcodes) :
    BaseTable.Admitted p (baseTable p m) m.nopOpcode m.reservedOpcodes := by
  refine ⟨fun o => ⟨baseTable_step_zero p m o, baseTable_step_one p m o⟩,
    fun o => ⟨(rowSteps m o).length, ?_, baseTable_activeUpTo p m o⟩,
    baseTable_noSteps p (.inl rfl), baseTable_noSteps p (.inr (.inl rfl)),
    baseTable_noSteps p (.inr (.inr (.inl rfl))),
    fun o ho => baseTable_noSteps p (.inr (.inr (.inr ho))), hjc, hjz⟩
  exact List.mem_range.mpr (Nat.lt_succ_of_le (rowSteps_length_le m o))

/-- R7: the hardware's configuration reserves neither JC nor JZ. -/
theorem hardware_reserves_no_jump :
    opcodeJC ∉ Config.hardware.micro.reservedOpcodes ∧
      opcodeJZ ∉ Config.hardware.micro.reservedOpcodes := by
  simp [Config.hardware, opcodeJC, opcodeJZ]

/-- Settles O36: the hardware's microprogram is one of those that reserve neither JC nor JZ. -/
theorem configuredTableAdmitted : Obligations.ConfiguredTableAdmitted :=
  ⟨baseTable_admitted _ hardware_reserves_no_jump.1 hardware_reserves_no_jump.2,
    fun p _ hjc hjz => baseTable_admitted p hjc hjz⟩

/-! ## BURN of equal bytes (R103, R105) -/

/-- BURN of n equal bytes writes that byte to the addresses 0 to n - 1. -/
theorem burnCommands_replicate (n : Nat) (v : Byte) :
    burnCommands (List.replicate n v) =
      (List.range n).map fun k => .write (BitVec.ofNat 16 k) v := by
  apply List.ext_getElem
  · simp [burnCommands]
  · intro k _ _
    simp [burnCommands]

/-- Settles O59: ERASE is the case of ROM_SIZE bytes 0xFF. -/
theorem eraseIsBurnOfOnes : Obligations.EraseIsBurnOfOnes :=
  fun p => (burnCommands_replicate p.romSize 0xFF#8).symm

end Sys2Proof.Machine
end

section
/-! PROOFS of the state family: the invariant SafeState (O44, O47 to O50), reset (O45), the lists that
only grow (O52), the order of the phases (O54), canonical memories (O55), the sampled levels (O16) and
GEN_MICROCODE (O35). -/

namespace Sys2Proof.Machine

/-! ## What a sample leaves as it is (R34) -/

section
variable (p : Params) (i : Nat) (s : State)

@[simp] theorem sample_q : (sample p i s).2.q = s.q := by rw [sample_frame]
@[simp] theorem sample_dir : (sample p i s).2.dir = s.dir := by rw [sample_frame]
@[simp] theorem sample_dout : (sample p i s).2.dout = s.dout := by rw [sample_frame]
@[simp] theorem sample_weN : (sample p i s).2.weN = s.weN := by rw [sample_frame]
@[simp] theorem sample_srclk : (sample p i s).2.srclk = s.srclk := by rw [sample_frame]
@[simp] theorem sample_rclk : (sample p i s).2.rclk = s.rclk := by rw [sample_frame]
@[simp] theorem sample_opAddr : (sample p i s).2.opAddr = s.opAddr := by rw [sample_frame]
@[simp] theorem sample_opVal : (sample p i s).2.opVal = s.opVal := by rw [sample_frame]
@[simp] theorem sample_results : (sample p i s).2.results = s.results := by rw [sample_frame]
@[simp] theorem sample_trace :
    (sample p i s).2.trace = s.trace ++ [.sample i (sample p i s).1] := by rw [sample_frame]

@[simp] theorem sampleByte_q : (sampleByte p s).2.q = s.q := by rw [sampleByte_frame]
@[simp] theorem sampleByte_dir : (sampleByte p s).2.dir = s.dir := by rw [sampleByte_frame]
@[simp] theorem sampleByte_weN : (sampleByte p s).2.weN = s.weN := by rw [sampleByte_frame]
@[simp] theorem sampleByte_srclk : (sampleByte p s).2.srclk = s.srclk := by rw [sampleByte_frame]
@[simp] theorem sampleByte_rclk : (sampleByte p s).2.rclk = s.rclk := by rw [sampleByte_frame]
@[simp] theorem sampleByte_opAddr : (sampleByte p s).2.opAddr = s.opAddr := by rw [sampleByte_frame]
@[simp] theorem sampleByte_results : (sampleByte p s).2.results = s.results := by rw [sampleByte_frame]

end

/-! ## What WC_SAMPLE does, whatever its end (R140) -/

section
variable (p : Params) (s : State)

/-- WC_SAMPLE touches no line, no latch and no operand. -/
theorem wcSample_keeps :
    (wcSample p s).q = s.q ∧ (wcSample p s).dir = s.dir ∧ (wcSample p s).dout = s.dout ∧
      (wcSample p s).weN = s.weN ∧ (wcSample p s).srclk = s.srclk ∧ (wcSample p s).rclk = s.rclk ∧
      (wcSample p s).opAddr = s.opAddr ∧ (wcSample p s).opVal = s.opVal := by
  rcases wcSample_cases p s with ⟨_, e⟩ | ⟨_, _, e⟩ | ⟨_, _, e⟩ <;> simp [e]

theorem wcSample_phase : (wcSample p s).phase = .idle ∨ (wcSample p s).phase = .wcWait := by
  rcases wcSample_cases p s with ⟨_, e⟩ | ⟨_, _, e⟩ | ⟨_, _, e⟩ <;> simp [e]

theorem wcSample_trace :
    (wcSample p s).trace = s.trace ++ [.sample 7 (sample p 7 s).1] := by
  rcases wcSample_cases p s with ⟨_, e⟩ | ⟨_, _, e⟩ | ⟨_, _, e⟩ <;> simp [e]

end

/-! ## The chip's half of the invariant -/

/-- The clauses of `SafeState` that speak of the EEPROM alone. No bus event breaks them, so that they hold
inside the phases as well, where WE_N is low. -/
def ChipSafe (p : Params) (s : State) : Prop :=
  Memory.wf p s.mem ∧ PendingInRange p s ∧ ChipAtRest s

section
variable {p : Params} {s : State}

/-- Only the chip's own fields count. -/
theorem chipSafe_congr {t : State} (h : ChipSafe p s) (hm : t.mem = s.mem) (ha : t.pendAddr = s.pendAddr)
    (hb : t.busy = s.busy) (hc : t.cycleLeft = s.cycleLeft) (ho : t.overlapped = s.overlapped) :
    ChipSafe p t := by
  simpa only [ChipSafe, PendingInRange, ChipAtRest, hm, ha, hb, hc, ho] using h

theorem chipTick_chipSafe (h : ChipSafe p s) : ChipSafe p (chipTick p s) := by
  obtain ⟨hm, ha, hr⟩ := h
  refine ⟨chipTick_wf hm ha, by simpa [PendingInRange] using ha, ?_⟩
  rcases chipTick_cases p s with ⟨e, _⟩ | ⟨_, hb, _, e⟩ | ⟨_, _, e⟩ <;> rw [e]
  · exact hr
  · exact fun h => absurd (hb.symm.trans h) (by decide)
  · exact fun _ => ⟨rfl, rfl⟩

/-- A write cycle starts with the address the chip sees, which is the address of a cell. -/
theorem startCycle_chipSafe (h : ChipSafe p s) : ChipSafe p (startCycle p s) := by
  obtain ⟨hm, ha, -⟩ := h
  refine ⟨startCycle_wf hm ha, ?_, fun hb => absurd hb (by simp)⟩
  rw [PendingInRange, startCycle_pendAddr]
  exact chipAddress_lt p s.q

theorem unsettle_chipSafe (h : ChipSafe p s) : ChipSafe p (unsettle p s) := by
  obtain ⟨hm, ha, hr⟩ := h
  exact ⟨unsettle_wf hm ha, by simpa [PendingInRange] using ha, by simpa [ChipAtRest] using hr⟩

theorem sample_chipSafe (h : ChipSafe p s) (i : Nat) : ChipSafe p (sample p i s).2 := by
  obtain ⟨n, hn⟩ := sample_state p s i
  rw [hn]
  exact chipTick_chipSafe h

theorem sampleByte_chipSafe (h : ChipSafe p s) : ChipSafe p (sampleByte p s).2 :=
  List.foldlRecOn (motive := fun acc : Byte × State => ChipSafe p acc.2) linesDown _ h
    fun _ hacc i _ => sample_chipSafe hacc i

theorem setAddress_chipSafe (h : ChipSafe p s) (a : Address) (oe : Bool) :
    ChipSafe p (setAddress p a oe s) := by
  rw [setAddress_eq]
  exact chipTick_chipSafe h

theorem weHigh_chipSafe (h : ChipSafe p s) : ChipSafe p (weHigh p s) :=
  startCycle_chipSafe (s := { chipTick p s with weN := true }) (chipTick_chipSafe h)

theorem wrPulse_chipSafe (h : ChipSafe p s) : ChipSafe p (wrPulse p s) :=
  have hlow : ChipSafe p (weLow p s) := chipTick_chipSafe h
  have hwait : ChipSafe p (waitWp p (weLow p s)) := chipTick_chipSafe hlow
  weHigh_chipSafe hwait

theorem wcSample_chipSafe (h : ChipSafe p s) : ChipSafe p (wcSample p s) := by
  have ht : ChipSafe p { (sample p 7 s).2 with polls := s.polls + 1 } := sample_chipSafe h 7
  rcases wcSample_cases p s with ⟨_, e⟩ | ⟨_, _, e⟩ | ⟨_, _, e⟩ <;> rw [e]
  · exact ht
  · exact unsettle_chipSafe ht
  · exact ht

/-- Every phase keeps the chip's half, on any bus. -/
theorem phaseStep_chipSafe (h : ChipSafe p s) : ChipSafe p (phaseStep p s) := by
  have tick := chipTick_chipSafe h
  cases hp : s.phase <;> simp only [phaseStep, hp]
  case idle => exact h
  case rdDir | wrDir | wrDrive | wcDir | wcWait => exact chipSafe_congr tick rfl rfl rfl rfl rfl
  case rdLatch | wrLatch | wcLatch =>
    simp only [rdLatch, wrLatch, wcLatch, setAddress_eq]
    exact chipSafe_congr tick rfl rfl rfl rfl rfl
  case rdSample => exact chipSafe_congr (sampleByte_chipSafe h) rfl rfl rfl rfl rfl
  case wrPulse => exact wrPulse_chipSafe h
  case wcSample => exact wcSample_chipSafe h

end

/-! ## The controller's half of the invariant -/

/-- The clauses of `SafeState` that speak of the controller: the lines, the bus order of the phase, and the
operand in flight. -/
def BusSafe (p : Params) (s : State) : Prop := LinesIdle s ∧ PhaseBus s ∧ InFlightInRange p s

/-- The invariant is its two halves. -/
theorem safeState_iff {p : Params} {s : State} : SafeState p s ↔ ChipSafe p s ∧ BusSafe p s := by
  simp only [SafeState, ChipSafe, BusSafe]
  tauto

/-- Every phase keeps the controller's half, on any chip: it ends with WE_N high and both clocks low, sets
what the next phase needs, and leaves the operand as it is. -/
theorem phaseStep_busSafe {p : Params} {s : State} (h : BusSafe p s) : BusSafe p (phaseStep p s) := by
  obtain ⟨⟨hw, hs, hr⟩, hb, ha⟩ := h
  cases hp : s.phase <;> simp only [PhaseBus, InFlightInRange, hp, reduceCtorEq, false_or] at hb ha <;>
    simp only [phaseStep, hp, BusSafe, LinesIdle, PhaseBus, InFlightInRange]
  case idle => simp [*]
  case rdDir => simp [rdDir, dirIn, *]
  case rdLatch => simp [rdLatch, setAddress_eq, *]
  case rdSample => simp [rdSample, *]
  case wrLatch => simp [wrLatch, setAddress_eq, *]
  case wrDir => simp [wrDir, dirOut, *]
  case wrDrive => simp [wrDrive, drive, driveLines_eq, *]
  case wrPulse => simp [wrPulse, weHigh, waitWp, weLow, *]
  case wcDir => simp [wcDir, dirIn, *]
  case wcLatch => simp [wcLatch, setAddress_eq, *]
  case wcSample =>
    rcases wcSample_phase p s with hnext | hnext <;> simp [wcSample_keeps, *]
  case wcWait => simp [wcWait, waitPoll, *]

/-- Settles O48: each half of the invariant is kept on its own. -/
theorem phaseStepKeepsSafe : Obligations.PhaseStepKeepsSafe := by
  intro p s h
  obtain ⟨hchip, hbus⟩ := safeState_iff.mp h
  exact safeState_iff.mpr ⟨phaseStep_chipSafe hchip, phaseStep_busSafe hbus⟩

/-! ## Running phases keeps what every phase keeps -/

theorem runPhases_induction {p : Params} {P : State → Prop} (hP : ∀ s, P s → P (phaseStep p s))
    (n : Nat) {s : State} (h : P s) : P (runPhases p n s) := by
  induction n generalizing s with
  | zero => exact h
  | succ n ih => exact ih (hP s h)

theorem runPhases_safe {p : Params} {s : State} (h : SafeState p s) (n : Nat) :
    SafeState p (runPhases p n s) :=
  runPhases_induction (phaseStepKeepsSafe p) n h

/-! ## What one step can do -/

/-- What running one word at IDLE can do: SET_ADDRESS on its own, a command's answer or error at once, or
the phases of a READ or a WRITE that has passed its range check. -/
inductive Runs (s : State) : State → Prop
  | setAddress (a : Address) (oe : Bool) : Runs s (setAddress Config.hardware a oe s)
  | answer (r : Result) : Runs s (answer r s)
  | raise (c : ErrCode) (w : CommandWord) (i : ErrInfo) : Runs s (raise c w i s)
  | read (a : Address) (n : Nat) :
      inRange Config.hardware a → Runs s (runPhases Config.hardware n (startRead a s))
  | write (a : Address) (v : Byte) (n : Nat) :
      inRange Config.hardware a → Runs s (runPhases Config.hardware n (startWrite a v s))

section
variable {s t : State}

theorem readCommand_runs (a : Address) (s : State) : Runs s (readCommand Config.hardware a s) := by
  unfold readCommand
  split
  case isTrue ha => exact .read a 3 ha
  case isFalse => exact .raise _ _ _

/-- The six phases and the poll loop of a WRITE are one run of phases. -/
theorem writeCommand_runs (a : Address) (v : Byte) (s : State) :
    Runs s (writeCommand Config.hardware a v s) := by
  unfold writeCommand
  split
  case isTrue ha => simpa only [runPhases_add] using Runs.write a v (6 + _) ha
  case isFalse => exact .raise _ _ _

theorem exec_runs {i : Instr} (h : exec i s = .next t) : Runs s t := by
  cases i with
  | read a =>
    simp only [exec, execRead] at h
    split at h <;> cases h
    exact readCommand_runs a s
  | write a v =>
    simp only [exec, execWrite] at h
    split at h <;> cases h
    exact writeCommand_runs a v s
  | genDisplay =>
    simp only [exec, execGenDisplay] at h
    split at h <;> cases h
    exact .answer _
  | genMicrocode =>
    simp only [exec, execGenMicrocode] at h
    split at h <;> cases h
    exact .answer _
  | setAddress a oe =>
    cases h
    exact .setAddress a oe

theorem issue_runs {w : CommandWord} (h : issue w s = .next t) : Runs s t := by
  unfold issue at h
  split at h
  · exact exec_runs h
  · cases h
    exact .raise _ _ _

theorem issueLatch_runs {w : LatchWord} (h : issueLatch w s = .next t) : Runs s t := by
  unfold issueLatch at h
  split at h
  · exact exec_runs h
  · cases h

/-- A step is one phase of the command in flight, or at IDLE a wait, or a word taken from the latch port or
the host's list and run. -/
theorem step_cases (h : step s = .next t) :
    (s.phase ≠ .idle ∧ t = phaseStep Config.hardware s) ∨
    (s.phase = .idle ∧ t = chipTick Config.hardware s) ∨
    (s.phase = .idle ∧ ∃ ws port, Runs { s with pending := ws, latchPort := port } t) := by
  unfold step at h
  split at h
  case isFalse hp =>
    cases h
    exact .inl ⟨hp, rfl⟩
  case isTrue hp =>
    split at h
    · exact .inr (.inr ⟨hp, s.pending, none, issueLatch_runs h⟩)
    · split at h
      · cases h
        exact .inr (.inl ⟨hp, rfl⟩)
      · exact .inr (.inr ⟨hp, _, s.latchPort, issue_runs h⟩)

end

/-! ## Every step keeps the machine safe -/

section
variable {p : Params} {s t : State}

/-- At IDLE the lines are inputs. -/
theorem dir_of_idle (h : PhaseBus s) (hp : s.phase = .idle) : s.dir = 0x00#8 := by
  simpa [PhaseBus, hp] using h

/-- What makes an IDLE state safe. -/
theorem safeState_of_idle (hchip : ChipSafe p s) (hlines : LinesIdle s) (hdir : s.dir = 0x00#8)
    (hp : s.phase = .idle) : SafeState p s :=
  safeState_iff.mpr ⟨hchip, hlines, by simpa [PhaseBus, hp] using hdir, .inl hp⟩

theorem startRead_safe (h : SafeState p s) (hp : s.phase = .idle) {a : Address} (ha : inRange p a) :
    SafeState p (startRead a s) := by
  obtain ⟨hchip, hlines, hbus, -⟩ := safeState_iff.mp h
  have hdir := dir_of_idle hbus hp
  exact safeState_iff.mpr ⟨hchip, hlines, hdir, .inr ha⟩

theorem startWrite_safe (h : SafeState p s) (hp : s.phase = .idle) {a : Address} (ha : inRange p a)
    (v : Byte) : SafeState p (startWrite a v s) := by
  obtain ⟨hchip, hlines, hbus, -⟩ := safeState_iff.mp h
  have hdir := dir_of_idle hbus hp
  exact safeState_iff.mpr ⟨hchip, hlines, hdir, .inr ha⟩

theorem chipTick_safe (h : SafeState p s) (hp : s.phase = .idle) : SafeState p (chipTick p s) := by
  obtain ⟨hchip, hlines, hbus, -⟩ := safeState_iff.mp h
  exact safeState_of_idle (chipTick_chipSafe hchip) (by simpa [LinesIdle] using hlines)
    (by simpa using dir_of_idle hbus hp) (by simpa using hp)

theorem setAddress_safe (h : SafeState p s) (hp : s.phase = .idle) (a : Address) (oe : Bool) :
    SafeState p (setAddress p a oe s) := by
  obtain ⟨hchip, ⟨hw, -⟩, hbus, -⟩ := safeState_iff.mp h
  exact safeState_of_idle (setAddress_chipSafe hchip a oe) (by simpa [LinesIdle, setAddress_eq] using hw)
    (by simpa [setAddress_eq] using dir_of_idle hbus hp) (by simpa [setAddress_eq] using hp)

theorem runs_safe (h : SafeState Config.hardware s) (hp : s.phase = .idle) (hr : Runs s t) :
    SafeState Config.hardware t := by
  obtain ⟨hchip, hlines, hbus, -⟩ := safeState_iff.mp h
  have hdir := dir_of_idle hbus hp
  cases hr with
  | setAddress a oe => exact setAddress_safe h hp a oe
  | answer r => exact safeState_of_idle hchip hlines hdir rfl
  | raise c w i => exact safeState_of_idle hchip hlines hdir rfl
  | read a n ha => exact runPhases_safe (startRead_safe h hp ha) n
  | write a v n ha => exact runPhases_safe (startWrite_safe h hp ha v) n

end

/-- Settles O47, by the three things a step can do. -/
theorem stepKeepsSafe : Obligations.StepKeepsSafe := by
  intro s t h hstep
  rcases step_cases hstep with ⟨-, rfl⟩ | ⟨hp, rfl⟩ | ⟨hp, ws, port, hr⟩
  · exact phaseStepKeepsSafe _ s h
  · exact chipTick_safe h hp
  · exact runs_safe (s := { s with pending := ws, latchPort := port }) h hp hr

/-- Settles O44: nothing is listed, nothing is in flight, and PEND_ADDR = 0 is the address of a cell. -/
theorem resetIsSafe : Obligations.ResetIsSafe :=
  safeState_of_idle ⟨reset_memory_wf _, romSize_pos _, fun _ => ⟨rfl, rfl⟩⟩ ⟨rfl, rfl, rfl⟩ rfl rfl

/-- Settles O45: the values stand in the definition of the state after reset. -/
theorem resetValues : Obligations.ResetValues :=
  ⟨rfl, rfl, rfl, rfl, rfl, rfl, rfl, rfl⟩

/-! ## The bus pair of each phase (R230) -/

/-- The pair (DIR, OE_N) before each phase, where the invariant fixes both. -/
def Phase.pair : Phase → Option (Byte × Bool)
  | .idle | .rdDir | .rdLatch | .wrLatch => none
  | .wrDir | .wcLatch => some (0x00#8, true)
  | .wrDrive | .wrPulse | .wcDir => some (0xFF#8, true)
  | .rdSample | .wcSample | .wcWait => some (0x00#8, false)

section
variable {p : Params} {s : State}

/-- Where the phase fixes no pair, the lines are inputs. -/
theorem dir_of_pair_none (h : PhaseBus s) (hx : s.phase.pair = none) : s.dir = 0x00#8 := by
  cases hp : s.phase <;> simp_all [PhaseBus, Phase.pair]

theorem busPair_of_phase (h : SafeState p s) {x : Byte × Bool} (hx : s.phase.pair = some x) :
    busPair s = x := by
  obtain ⟨-, -, hbus, hrange⟩ := safeState_iff.mp h
  have ha : inRange p s.opAddr := hrange.resolve_left fun hp => by simp [hp, Phase.pair] at hx
  have hoe := outputEnableN_latchWord ha
  cases hp : s.phase <;> simp_all [PhaseBus, Phase.pair, busPair]

/-- Settles O49: the lines are outputs only in the phases whose pair has OE_N = 1. -/
theorem safeMeansNoContention : Obligations.SafeMeansNoContention := by
  intro p s h
  cases hx : s.phase.pair with
  | none =>
    obtain ⟨-, -, hbus, -⟩ := safeState_iff.mp h
    have hd := dir_of_pair_none hbus hx
    exact ⟨.inl hd, fun hff => absurd (hd.symm.trans hff) (by decide)⟩
  | some x =>
    have hpair : (s.dir, outputEnableN s.q) = x := busPair_of_phase h hx
    have hx' : x = (0x00#8, true) ∨ x = (0xFF#8, true) ∨ x = (0x00#8, false) := by
      cases hp : s.phase <;> simp_all [Phase.pair]
    simp only [DirUniform, NoContention]
    rcases hx' with rfl | rfl | rfl <;> obtain ⟨hd, hq⟩ := Prod.mk.inj hpair <;> simp [hd, hq]

end

/-- The states of a run are safe. -/
theorem reachable_safe {s : State} (h : Reachable s) : SafeState Config.hardware s := by
  induction h with
  | reset => exact resetIsSafe
  | offer s w _ ih => exact ih
  | chip s b _ ih => exact ih
  | startRead s a _ hp ha ih => exact startRead_safe ih hp ha
  | startWrite s a v _ hp ha ih => exact startWrite_safe ih hp ha v
  | phase s _ ih => exact phaseStepKeepsSafe _ s ih
  | step s t _ hstep ih => exact stepKeepsSafe s t ih hstep

/-- RD_SAMPLE leaves the bus as it finds it (R127). -/
theorem rdSample_busPair (p : Params) (s : State) : busPair (rdSample p s) = busPair s := by
  simp [busPair, rdSample]

/-- Settles O50: safety is kept by any number of phases and along every run, and the pairs are those of the
phases that a WRITE and a READ go through. -/
theorem reachableNoContention : Obligations.ReachableNoContention := by
  refine ⟨fun p s n h => safeMeansNoContention p _ (runPhases_safe h n), fun s h => ?_,
    fun p a v s h hp ha => ?_⟩
  · have hs := reachable_safe h
    obtain ⟨-, ⟨hw, -⟩, -⟩ := safeState_iff.mp hs
    obtain ⟨hdir, hcont⟩ := safeMeansNoContention _ s hs
    exact ⟨hdir, hcont, hw⟩
  · have write := runPhases_safe (startWrite_safe h hp ha v)
    have read := runPhases_safe (startRead_safe h hp ha)
    have sampled : busPair (runPhases p 2 (startRead a s)) = (0x00#8, false) :=
      busPair_of_phase (read 2) rfl
    exact ⟨busPair_of_phase (write 1) rfl, busPair_of_phase (write 2) rfl,
      busPair_of_phase (write 3) rfl, busPair_of_phase (write 4) rfl, busPair_of_phase (write 5) rfl,
      busPair_of_phase (write 6) rfl, rfl, sampled, (rdSample_busPair p _).trans sampled⟩

/-! ## The order of the phases (R30) -/

/-- Settles O54: each phase names the next one; WC_SAMPLE has two ends. -/
theorem phasesInOrder : Obligations.PhasesInOrder := by
  intro p s
  cases hp : s.phase <;> simp only [phaseStep, hp]
  case wcSample => exact wcSample_phase p s
  all_goals rfl

/-! ## The lists that only grow (R33, R201) -/

theorem phaseStep_trace (p : Params) (s : State) : s.trace <+: (phaseStep p s).trace := by
  cases hp : s.phase <;> simp only [phaseStep, hp]
  case idle => exact List.prefix_rfl
  case rdDir => simp [rdDir, dirIn]
  case rdLatch => simp [rdLatch, setAddress_eq]
  case rdSample => simp [rdSample, sampleByte_trace]
  case wrLatch => simp [wrLatch, setAddress_eq]
  case wrDir => simp [wrDir, dirOut]
  case wrDrive => simp [wrDrive, drive]
  case wrPulse => simp [wrPulse, weHigh, waitWp, weLow]
  case wcDir => simp [wcDir, dirIn]
  case wcLatch => simp [wcLatch, setAddress_eq]
  case wcSample => simp [wcSample_trace]
  case wcWait => simp [wcWait, waitPoll]

theorem runPhases_trace (p : Params) (n : Nat) (s : State) : s.trace <+: (runPhases p n s).trace :=
  runPhases_induction (P := fun t => s.trace <+: t.trace)
    (fun t h => h.trans (phaseStep_trace p t)) n List.prefix_rfl

/-- The host has received nothing since s, or one result, and with it the command has ended (R201). -/
def AnswersOnce (s t : State) : Prop :=
  t.results = s.results ∨ t.phase = .idle ∧ ∃ r, t.results = s.results ++ [r]

theorem wcSample_answersOnce (p : Params) (s : State) : AnswersOnce s (wcSample p s) := by
  rcases wcSample_cases p s with ⟨_, e⟩ | ⟨_, _, e⟩ | ⟨_, _, e⟩ <;> simp [AnswersOnce, e]

theorem phaseStep_answersOnce (p : Params) (s : State) : AnswersOnce s (phaseStep p s) := by
  cases hp : s.phase <;> simp only [phaseStep, hp]
  case rdSample => exact .inr ⟨rfl, .okByte (sampleByte p s).1, by simp [rdSample]⟩
  case wcSample => exact wcSample_answersOnce p s
  case idle => exact .inl rfl
  case rdDir => exact .inl (by simp [rdDir, dirIn])
  case rdLatch => exact .inl (by simp [rdLatch, setAddress_eq])
  case wrLatch => exact .inl (by simp [wrLatch, setAddress_eq])
  case wrDir => exact .inl (by simp [wrDir, dirOut])
  case wrDrive => exact .inl (by simp [wrDrive, drive])
  case wrPulse => exact .inl (by simp [wrPulse, weHigh, waitWp, weLow])
  case wcDir => exact .inl (by simp [wcDir, dirIn])
  case wcLatch => exact .inl (by simp [wcLatch, setAddress_eq])
  case wcWait => exact .inl (by simp [wcWait, waitPoll])

/-- A run of phases answers at most once, since no phase runs after the answer. -/
theorem runPhases_answersOnce (p : Params) (n : Nat) (s : State) :
    AnswersOnce s (runPhases p n s) := by
  refine runPhases_induction (P := AnswersOnce s) (fun t h => ?_) n (.inl rfl)
  rcases h with h | ⟨hp, h⟩
  · simpa only [AnswersOnce, h] using phaseStep_answersOnce p t
  · rw [phaseStep_idle hp]
    exact .inr ⟨hp, h⟩

section
variable {s t : State}

theorem runs_trace (h : Runs s t) : s.trace <+: t.trace := by
  cases h with
  | setAddress a oe => simp [setAddress_eq]
  | answer r => exact List.prefix_rfl
  | raise c w i => exact List.prefix_rfl
  | read a n _ => exact runPhases_trace _ n (startRead a s)
  | write a v n _ => exact runPhases_trace _ n (startWrite a v s)

theorem runs_answersOnce (h : Runs s t) : AnswersOnce s t := by
  cases h with
  | setAddress a oe => exact .inl (by simp [setAddress_eq])
  | answer r => exact .inr ⟨rfl, _, rfl⟩
  | raise c w i => exact .inr ⟨rfl, _, rfl⟩
  | read a n _ => exact runPhases_answersOnce _ n (startRead a s)
  | write a v n _ => exact runPhases_answersOnce _ n (startWrite a v s)

theorem step_trace (h : step s = .next t) : s.trace <+: t.trace := by
  rcases step_cases h with ⟨-, rfl⟩ | ⟨-, rfl⟩ | ⟨-, ws, port, hr⟩
  · exact phaseStep_trace _ s
  · simp
  · exact runs_trace (s := { s with pending := ws, latchPort := port }) hr

theorem step_answersOnce (h : step s = .next t) : AnswersOnce s t := by
  rcases step_cases h with ⟨-, rfl⟩ | ⟨-, rfl⟩ | ⟨-, ws, port, hr⟩
  · exact phaseStep_answersOnce _ s
  · exact .inl (by simp)
  · exact runs_answersOnce (s := { s with pending := ws, latchPort := port }) hr

end

/-- Settles O52: a step only appends to the trace, and answers at most once. -/
theorem traceOnlyGrows : Obligations.TraceOnlyGrows := by
  intro s t h
  obtain ⟨es, hes⟩ := step_trace h
  refine ⟨⟨es, hes.symm⟩, ?_⟩
  rcases step_answersOnce h with hr | ⟨-, r, hr⟩
  · exact ⟨[], by simp [hr], by simp⟩
  · exact ⟨[r], hr, by simp⟩

/-! ## Canonical memories (R35) -/

/-- A canonical memory lists exactly the cells that differ from the start of the run, each with its byte. -/
theorem memory_mem_iff {p : Params} {m : Memory} (hm : Memory.wf p m) (a : Nat) (v : Byte) :
    (a, v) ∈ m ↔ Memory.read p.initialByte m a = v ∧ v ≠ p.initialByte a := by
  induction m with
  | nil => simp [Memory.read, eq_comm]
  | cons x m ih =>
    obtain ⟨hx, hsorted⟩ := List.pairwise_cons.mp hm.1
    have hwf : Memory.wf p m := ⟨hsorted, fun y hy => hm.2 y (List.mem_cons_of_mem _ hy)⟩
    have hne : x.2 ≠ p.initialByte x.1 := (hm.2 x (by simp)).2
    obtain ⟨b, u⟩ := x
    have above : (a, v) ∈ m → b < a := hx (a, v)
    simp only [Memory.read, List.mem_cons, Prod.mk.injEq]
    rcases lt_trichotomy a b with h | rfl | h
    · have hm : (a, v) ∉ m := fun hmem => absurd (above hmem) (by omega)
      simp [hm, h, Nat.ne_of_lt h, eq_comm]
    · have hm : (a, v) ∉ m := fun hmem => absurd (above hmem) (by omega)
      rw [if_pos rfl]
      constructor
      · rintro (⟨-, rfl⟩ | hmem)
        · exact ⟨rfl, hne⟩
        · exact absurd hmem hm
      · rintro ⟨rfl, -⟩
        exact .inl ⟨rfl, rfl⟩
    · rw [if_neg (by omega), if_neg (by omega), ← ih hwf]
      simp [Nat.ne_of_gt h]

theorem memory_nodup {p : Params} {m : Memory} (hm : Memory.wf p m) : m.Nodup :=
  hm.1.imp fun h e => absurd (congrArg Prod.fst e) (Nat.ne_of_lt h)

/-- Settles O55: the two lists have the same members, and each is in strictly rising order. -/
theorem canonicalMemory : Obligations.CanonicalMemory := by
  intro p m m' hm hm' h
  have hmem : ∀ x, x ∈ m ↔ x ∈ m' := fun ⟨a, v⟩ => by
    rw [memory_mem_iff hm, memory_mem_iff hm', h]
  refine List.Perm.eq_of_pairwise (fun x y _ _ hxy hyx => absurd hxy hyx.asymm) hm.1 hm'.1 ?_
  exact (List.perm_ext_iff_of_nodup (memory_nodup hm) (memory_nodup hm')).mpr hmem

/-! ## The level of a sampled line (R54) -/

/-- The tick of a chip whose cycle does not end with it moves only the count. -/
theorem chipTick_of_not_ending {p : Params} {s : State} (h : s.busy = true → s.cycleLeft ≠ some 0) :
    ∃ c, chipTick p s = { s with cycleLeft := c } := by
  rcases chipTick_cases p s with ⟨e, -⟩ | ⟨n, -, -, e⟩ | ⟨hb, hc, -⟩
  · exact ⟨s.cycleLeft, e⟩
  · exact ⟨some n, e⟩
  · exact absurd hc (h hb)

/-- No level depends on how long the cycle still lasts. -/
theorem lineLevel_cycleLeft (p : Params) (i : Nat) (s : State) (c : Option Nat) :
    (lineLevel p i { s with cycleLeft := c }).1 = (lineLevel p i s).1 ∧
      (lineLevel p i { s with cycleLeft := c }).2.draws = (lineLevel p i s).2.draws := by
  simp only [lineLevel, drawBit, State.cell]
  split_ifs <;> exact ⟨rfl, rfl⟩

/-- Where the cycle does not end at that moment, a sample shows the level of the line before the tick. -/
theorem sample_of_not_ending {p : Params} {s : State} (h : s.busy = true → s.cycleLeft ≠ some 0)
    (i : Nat) :
    (sample p i s).1 = (lineLevel p i s).1 ∧ (sample p i s).2.draws = (lineLevel p i s).2.draws := by
  obtain ⟨c, hc⟩ := chipTick_of_not_ending (p := p) h
  simpa only [sample, hc, emit_draws] using lineLevel_cycleLeft p i s c

/-- Settles O16, by the cases of R54 in their order. -/
theorem sampleLevels : Obligations.SampleLevels := by
  intro p i s _ hc
  obtain ⟨hlevel, hdraws⟩ := sample_of_not_ending (p := p) hc i
  refine ⟨sample_trace p i s, ?_⟩
  rw [hlevel, hdraws]
  refine ⟨?_, fun hd hq hf => ?_, fun hd hq hf => ⟨fun hb ho ha hi => ?_, fun hb h => ?_,
    fun hb => ?_⟩⟩
  · rintro (hd | hq)
    · simp [lineLevel, drawBit, hd]
    · simp [lineLevel, drawBit, hq]
  · simp [lineLevel, drawBit, hd, hq, hf]
  · subst hi
    simp [lineLevel, hd, hq, hf, hb, ho, ha, -BitVec.getLsbD_eq_getElem]
  · have hno : ¬ (s.busy ∧ ¬ s.overlapped ∧ chipAddress p s.q = s.pendAddr ∧ i = 7) := by
      rcases h with ho | ha | hi <;> simp [*]
    simp only [lineLevel, if_neg hno]
    simp [drawBit, hd, hq, hf, hb]
  · simp [lineLevel, hd, hq, hf, hb]

/-! ## GEN_MICROCODE (R184) -/

/-- At IDLE an answer only adds to the results. -/
theorem answer_of_idle {s : State} (hp : s.phase = .idle) (r : Result) :
    answer r s = { s with results := s.results ++ [r] } := by
  rw [answer, ← hp]

/-- Settles O35: the answer is the image, whose byte at each address is MICRO's. -/
theorem genMicrocodeReturnsImage : Obligations.GenMicrocodeReturnsImage := by
  intro s hp
  refine ⟨?_, by simp [configuredMicroImage, microImage], image_get _ rfl⟩
  rw [← answer_of_idle hp]
  exact if_pos hp

end Sys2Proof.Machine
end

section
/-! PROOFS of the memory family: waiting steps (O9, O17), which cells change (O18, O53), READ (O19 to O21),
and from the closed form of WRITE on a sound chip that was not busy its timeout and what a READ finds after
it (O25, O27). -/

namespace Sys2Proof.Machine

/-! ## The controller beside the chip

A bus event ticks the chip and moves the controller, and neither looks at the other meanwhile. So n events
tick the chip n times, whatever the controller does at them. -/

section
variable {p : Params} {s : State}

theorem chipTick_of_counting (hb : s.busy = true) {n : Nat} (hc : s.cycleLeft = some (n + 1)) :
    chipTick p s = { s with cycleLeft := some n } := by
  simp [chipTick, hb, hc]

theorem chipTick_of_ending (hb : s.busy = true) (hc : s.cycleLeft = some 0) :
    chipTick p s = finishCycle p s := by
  simp [chipTick, hb, hc]

end

/-- The controller of c beside the EEPROM of s. -/
def State.withChip (c s : State) : State :=
  { c with
    mem := s.mem
    busy := s.busy
    pendAddr := s.pendAddr
    pendVal := s.pendVal
    cycleLeft := s.cycleLeft
    overlapped := s.overlapped }

section
variable (p : Params) (c s : State)

/-- The tick is the chip's own. -/
theorem chipTick_withChip : chipTick p (c.withChip s) = c.withChip (chipTick p s) := by
  rcases chipTick_cases p s with ⟨e, hidle⟩ | ⟨n, hb, hc, e⟩ | ⟨hb, hc, e⟩ <;> rw [e]
  · rcases hidle with hb | hc
    · exact chipTick_of_not_busy hb
    · exact chipTick_of_never hc
  · exact chipTick_of_counting (s := c.withChip s) hb hc
  · exact chipTick_of_ending (s := c.withChip s) hb hc

theorem dirIn_withChip : dirIn p (c.withChip s) =
    (emit .dirIn { c with dir := 0x00#8 }).withChip (chipTick p s) := by
  rw [dirIn, chipTick_withChip]
  rfl

theorem setAddress_withChip (a : Address) (oe : Bool) : setAddress p a oe (c.withChip s) =
    (emit (.latch (latchWord a oe)) (latched a oe c)).withChip (chipTick p s) := by
  rw [setAddress_eq, chipTick_withChip]
  rfl

theorem weLow_withChip : weLow p (c.withChip s) =
    (emit .weLow { c with weN := false }).withChip (chipTick p s) := by
  rw [weLow, chipTick_withChip]
  rfl

theorem waitWp_withChip :
    waitWp p (c.withChip s) = (emit .waitWp c).withChip (chipTick p s) := by
  rw [waitWp, chipTick_withChip]
  rfl

theorem waitPoll_withChip :
    waitPoll p (c.withChip s) = (emit .waitPoll c).withChip (chipTick p s) := by
  rw [waitPoll, chipTick_withChip]
  rfl

end

/-! ## n bus events of a write cycle (R55) -/

/-- The write cycle outlasts n bus events; one that never finishes outlasts any number. -/
def Outlasts (n : Nat) (s : State) : Prop := ∀ d, s.cycleLeft = some d → n ≤ d

theorem Outlasts.mono {m n : Nat} {s : State} (h : Outlasts n s) (hmn : m ≤ n) : Outlasts m s :=
  fun d hd => hmn.trans (h d hd)

theorem Outlasts.of_never {s : State} (hc : s.cycleLeft = none) (n : Nat) : Outlasts n s :=
  fun _ hd => absurd (hc.symm.trans hd) (by simp)

theorem Outlasts.of_le {n d : Nat} {s : State} (hc : s.cycleLeft = some d) (h : n ≤ d) : Outlasts n s :=
  fun _ he => h.trans (Option.some.inj (hc.symm.trans he)).le

/-- A cycle outlasts n events, or ends within them. -/
theorem outlasts_or_ends (n : Nat) (s : State) :
    Outlasts n s ∨ ∃ d, s.cycleLeft = some d ∧ d < n := by
  unfold Outlasts
  by_contra! h
  obtain ⟨⟨d, hd, hlt⟩, hge⟩ := h
  exact absurd (hge d hd) (by omega)

section
variable {p : Params} {s : State}

theorem chipTick_iterate_of_not_busy (hb : s.busy = false) (n : Nat) : (chipTick p)^[n] s = s :=
  Function.iterate_fixed (chipTick_of_not_busy hb) n

/-- While the cycle lasts, the events only count it down. -/
theorem chipTick_iterate_of_outlasts (hb : s.busy = true) {n : Nat} (hn : Outlasts n s) :
    (chipTick p)^[n] s = { s with cycleLeft := s.cycleLeft.map (· - n) } := by
  induction n with
  | zero => cases hc : s.cycleLeft <;> simp [← hc]
  | succ n ih =>
    rw [Function.iterate_succ_apply', ih (hn.mono n.le_succ)]
    cases hc : s.cycleLeft with
    | none => simp [chipTick]
    | some d =>
      obtain ⟨k, rfl⟩ := Nat.exists_eq_add_of_le' (hn d hc)
      have hk : k + (n + 1) - n = k + 1 := by omega
      simp [chipTick, hb, hk]

/-- A cycle that ends within n events is over after them, and stays so. -/
theorem chipTick_iterate_of_ends (hb : s.busy = true) {d n : Nat} (hc : s.cycleLeft = some d)
    (hd : d < n) : (chipTick p)^[n] s = finishCycle p s := by
  obtain ⟨k, rfl⟩ := Nat.exists_eq_add_of_le' (Nat.succ_le_of_lt hd)
  have hlast := chipTick_iterate_of_outlasts (p := p) hb (Outlasts.of_le hc le_rfl)
  have hend : chipTick p ((chipTick p)^[d] s) = finishCycle p s := by
    rw [hlast]
    exact chipTick_of_ending (s := { s with cycleLeft := _ }) hb (by simp [hc])
  rw [Function.iterate_add_apply, Function.iterate_succ_apply', hend]
  exact chipTick_iterate_of_not_busy rfl k

end

/-! ## What a step does while the controller waits (R228) -/

theorem step_of_waiting {s : State} (hp : s.phase = .idle) (hl : s.latchPort = none) (hw : s.pending = []) :
    step s = .next (chipTick Config.hardware s) := by
  simp [step, hp, hl, hw]

/-- Settles O9: a waiting step is the chip's tick. -/
theorem stepWaits : Obligations.StepWaits := fun s hp hl hw =>
  ⟨_, step_of_waiting hp hl hw, chipTick_frame _ s, chipTick_of_not_busy⟩

/-! ## Cells after a write of MEM -/

/-- The addresses listed rise strictly: the half of the canonical form on which reading a cell rests. -/
abbrev Memory.Sorted (m : Memory) : Prop := m.Pairwise fun x y => x.1 < y.1

section
variable {p : Params} {s t : State}

theorem cell_of_mem_write (hs : Memory.Sorted s.mem) {a : CellAddress} {v : Byte}
    (ht : t.mem = Memory.write p.initialByte s.mem a.toNat v) (x : CellAddress) :
    t.cell p x = if x = a then v else s.cell p x := by
  rw [State.cell, ht, memory_read_write hs]
  simp [State.cell, BitVec.toNat_inj]

/-- At the end of a clean write cycle the pending cell holds the pending value (R55). -/
theorem finishCycle_cell (hs : Memory.Sorted s.mem) (ho : s.overlapped = false) (x : CellAddress) :
    (finishCycle p s).cell p x = if x = s.pendAddr then s.pendVal else s.cell p x :=
  cell_of_mem_write hs (by simp [ho]) x

theorem drawCell_cell (hs : Memory.Sorted s.mem) (a x : CellAddress) :
    (drawCell p a s).cell p x = if x = a then p.cellByte s.draws else s.cell p x :=
  cell_of_mem_write hs (drawCell_mem p a s) x

end

/-- Settles O17: the three cases of the tick of a busy chip. -/
theorem idleStepAdvancesCycle : Obligations.IdleStepAdvancesCycle := by
  intro s hp hl hw hb ho hm
  rw [step_of_waiting hp hl hw]
  refine ⟨fun hc => by rw [chipTick_of_never hc], fun n hc => by rw [chipTick_of_counting hb hc],
    fun hc => ?_⟩
  rw [chipTick_of_ending hb hc]
  refine ⟨_, rfl, ?_, ?_, fun x hx => ?_⟩
  · rw [finishCycle, ← ho]
  · rw [finishCycle_cell hm.1 ho, if_pos rfl]
  · rw [finishCycle_cell hm.1 ho, if_neg hx]

/-! ## Which cells change (R55, R56, R226) -/

/-- From s to t no cell changed but those of A, and the list of cells kept its order. -/
def ChangesOnly (p : Params) (A : CellAddress → Prop) (s t : State) : Prop :=
  Memory.Sorted s.mem → Memory.Sorted t.mem ∧ ∀ x, t.cell p x ≠ s.cell p x → A x

/-- The cell of the write in progress. -/
def InProgress (s : State) (x : CellAddress) : Prop := s.busy = true ∧ x = s.pendAddr

/-- From s to t no write started, and only the cell of the write in progress at s may have changed. -/
def Quiet (p : Params) (s t : State) : Prop :=
  t.pendAddr = s.pendAddr ∧ (t.busy = true → s.busy = true) ∧ ChangesOnly p (InProgress s) s t

/-- From s to t a write started, with a WE_HIGH among the events, and only its cell and that of the write in
progress at s may have changed. -/
def Started (p : Params) (s t : State) : Prop :=
  (∃ es : List Event, t.trace = s.trace ++ es ∧ .weHigh ∈ es) ∧
    ChangesOnly p (fun x => InProgress s x ∨ x = t.pendAddr) s t

section
variable {p : Params} {A B : CellAddress → Prop} {s t u : State}

theorem ChangesOnly.of_mem_eq (h : t.mem = s.mem) : ChangesOnly p A s t := by
  intro hs
  simp [State.cell, h, hs]

theorem ChangesOnly.of_mem_write {a : CellAddress} {v : Byte}
    (h : t.mem = Memory.write p.initialByte s.mem a.toNat v) : ChangesOnly p (· = a) s t := by
  refine fun hs => ⟨h ▸ memory_write_sorted hs _ _, fun x hx => ?_⟩
  by_contra hne
  rw [cell_of_mem_write hs h, if_neg hne] at hx
  exact hx rfl

theorem ChangesOnly.mono (h : ChangesOnly p A s t) (hAB : ∀ x, A x → B x) : ChangesOnly p B s t :=
  fun hs => (h hs).imp_right fun hx x hne => hAB x (hx x hne)

theorem ChangesOnly.trans (h : ChangesOnly p A s u) (h' : ChangesOnly p A u t) :
    ChangesOnly p A s t := by
  intro hs
  obtain ⟨hu, hsu⟩ := h hs
  obtain ⟨ht, hut⟩ := h' hu
  refine ⟨ht, fun x hx => ?_⟩
  by_cases hxu : u.cell p x = s.cell p x
  · exact hut x (hxu ▸ hx)
  · exact hsu x hxu

/-- A cell outside A is as before. -/
theorem ChangesOnly.cell_eq (h : ChangesOnly p A s t) (hs : Memory.Sorted s.mem) {x : CellAddress}
    (hx : ¬ A x) : t.cell p x = s.cell p x :=
  of_not_not fun hne => hx ((h hs).2 x hne)

theorem Quiet.refl (p : Params) (s : State) : Quiet p s s := ⟨rfl, id, .of_mem_eq rfl⟩

theorem Quiet.pendAddr (h : Quiet p s t) : t.pendAddr = s.pendAddr := h.1
theorem Quiet.busy (h : Quiet p s t) : t.busy = true → s.busy = true := h.2.1
theorem Quiet.cells (h : Quiet p s t) : ChangesOnly p (InProgress s) s t := h.2.2

/-- What was in progress at u was in progress at s. -/
theorem Quiet.inProgress (h : Quiet p s u) {x : CellAddress} (hx : InProgress u x) : InProgress s x :=
  ⟨h.busy hx.1, hx.2.trans h.pendAddr⟩

theorem Quiet.trans (h : Quiet p s u) (h' : Quiet p u t) : Quiet p s t :=
  ⟨h'.pendAddr.trans h.pendAddr, h.busy ∘ h'.busy,
    h.cells.trans (h'.cells.mono fun _ => h.inProgress)⟩

theorem Quiet.trans_started (h : Quiet p s u) (htrace : s.trace <+: u.trace) (h' : Started p u t) :
    Started p s t := by
  obtain ⟨es, hes⟩ := htrace
  obtain ⟨⟨es', htrace', hmem⟩, hcells⟩ := h'
  have hall : t.trace = s.trace ++ (es ++ es') := by rw [htrace', ← hes, List.append_assoc]
  refine ⟨⟨_, hall, List.mem_append_right _ hmem⟩, ?_⟩
  exact (h.cells.mono fun _ => .inl).trans (hcells.mono fun _ => Or.imp_left h.inProgress)

theorem Started.trans_quiet (h : Started p s u) (h' : Quiet p u t) (htrace : u.trace <+: t.trace) :
    Started p s t := by
  obtain ⟨es', hes'⟩ := htrace
  obtain ⟨⟨es, htrace, hmem⟩, hcells⟩ := h
  obtain ⟨haddr, -, hquiet⟩ := h'
  have hall : t.trace = s.trace ++ (es ++ es') := by rw [← hes', htrace, List.append_assoc]
  refine ⟨⟨_, hall, List.mem_append_left _ hmem⟩, ?_⟩
  rw [haddr]
  exact hcells.trans (hquiet.mono fun x hx => .inr hx.2)

/-! ### The operations that start no write -/

/-- Only the chip's own fields count. -/
theorem Quiet.congr (h : Quiet p s u) (hm : t.mem = u.mem) (ha : t.pendAddr = u.pendAddr)
    (hb : t.busy = u.busy) : Quiet p s t :=
  h.trans ⟨ha, hb ▸ id, .of_mem_eq hm⟩

theorem chipTick_quiet (p : Params) (s : State) : Quiet p s (chipTick p s) := by
  refine ⟨chipTick_pendAddr p s, ?_⟩
  rcases chipTick_cases p s with ⟨e, -⟩ | ⟨n, -, -, e⟩ | ⟨hb, -, e⟩ <;> rw [e]
  · exact ⟨id, .of_mem_eq rfl⟩
  · exact ⟨id, .of_mem_eq rfl⟩
  · refine ⟨fun _ => hb, ?_⟩
    cases ho : s.overlapped with
    | true => exact .of_mem_eq (by simp [ho])
    | false =>
      exact (ChangesOnly.of_mem_write (v := s.pendVal) (by simp [ho])).mono fun _ hx => ⟨hb, hx⟩

theorem unsettle_quiet (p : Params) (s : State) : Quiet p s (unsettle p s) := by
  rcases unsettle_cases p s with ⟨e, -⟩ | ⟨e, hb⟩ <;> rw [e]
  · exact .refl p s
  · have hcell : ChangesOnly p (· = s.pendAddr) s (drawCell p s.pendAddr s) :=
      .of_mem_write (drawCell_mem p _ s)
    exact ⟨rfl, id, hcell.mono fun _ hx => ⟨hb, hx⟩⟩

theorem sample_quiet (p : Params) (i : Nat) (s : State) : Quiet p s (sample p i s).2 := by
  obtain ⟨n, hn⟩ := sample_state p s i
  rw [hn]
  exact chipTick_quiet p s

theorem sampleByte_quiet (p : Params) (s : State) : Quiet p s (sampleByte p s).2 :=
  List.foldlRecOn (motive := fun acc : Byte × State => Quiet p s acc.2) linesDown _ (.refl p s)
    fun acc hacc i _ => hacc.trans (sample_quiet p i acc.2)

theorem setAddress_quiet (p : Params) (a : Address) (oe : Bool) (s : State) :
    Quiet p s (setAddress p a oe s) := by
  rw [setAddress_eq]
  exact chipTick_quiet p s

theorem wcSample_quiet (p : Params) (s : State) : Quiet p s (wcSample p s) := by
  have hs := sample_quiet p 7 s
  rcases wcSample_cases p s with ⟨-, e⟩ | ⟨-, -, e⟩ | ⟨-, -, e⟩ <;> rw [e]
  · exact hs
  · exact hs.trans (unsettle_quiet p { (sample p 7 s).2 with polls := s.polls + 1 })
  · exact hs

/-- No phase but the write-enable pulse starts a write. -/
theorem phaseStep_quiet (p : Params) (hp : s.phase ≠ .wrPulse) : Quiet p s (phaseStep p s) := by
  have tick := chipTick_quiet p s
  cases hph : s.phase <;> simp only [phaseStep, hph]
  case idle => exact .refl p s
  case rdDir | wrDir | wrDrive | wcDir | wcWait => exact tick.congr rfl rfl rfl
  case rdLatch | wrLatch | wcLatch =>
    simp only [rdLatch, wrLatch, wcLatch, setAddress_eq]
    exact tick.congr rfl rfl rfl
  case rdSample => exact sampleByte_quiet p s
  case wrPulse => exact absurd hph hp
  case wcSample => exact wcSample_quiet p s

/-! ### The write-enable pulse -/

theorem phaseStep_of_wrPulse (p : Params) (hp : s.phase = .wrPulse) : phaseStep p s = wrPulse p s := by
  simp [phaseStep, hp]

/-- The machine at the moment of WE_HIGH: the chip is three events on, and WE_N is high (R130). -/
def atWeHigh (p : Params) (s : State) : State :=
  State.withChip { s with weN := true, trace := s.trace ++ [.weLow, .waitWp] } ((chipTick p)^[3] s)

/-- The pulse is three events, the last one with the start of the write cycle (R53, R130). -/
theorem wrPulse_eq (p : Params) (s : State) :
    wrPulse p s = { emit .weHigh (startCycle p (atWeHigh p s)) with phase := .wcDir } := by
  have hlow : weLow p s = (emit .weLow { s with weN := false }).withChip (chipTick p s) :=
    weLow_withChip p s s
  rw [wrPulse, hlow, waitWp_withChip, weHigh, chipTick_withChip]
  simp [emit, State.withChip, atWeHigh]

/-- On a busy chip the pending and the new cell are drawn, one after the other (R56). -/
theorem startCycle_of_busy (hb : s.busy = true) : startCycle p s =
    { drawCell p (chipAddress p s.q) (drawCell p s.pendAddr s) with
      pendAddr := chipAddress p s.q
      pendVal := s.dout
      cycleLeft := p.cycleEvents (s.draws + 2)
      overlapped := true
      draws := s.draws + 3 } := by
  simp [startCycle, hb]

theorem startCycle_of_not_busy (hb : s.busy = false) : startCycle p s =
    { s with
      busy := true
      pendAddr := chipAddress p s.q
      pendVal := s.dout
      cycleLeft := p.cycleEvents s.draws
      overlapped := false
      draws := s.draws + 1 } := by
  simp [startCycle, hb]

theorem startCycle_changesOnly (p : Params) (s : State) :
    ChangesOnly p (fun x => InProgress s x ∨ x = chipAddress p s.q) s (startCycle p s) := by
  cases hb : s.busy with
  | false => exact .of_mem_eq (by rw [startCycle_of_not_busy hb])
  | true =>
    have hold : ChangesOnly p (· = s.pendAddr) s (drawCell p s.pendAddr s) :=
      .of_mem_write (drawCell_mem p _ s)
    have hnew : ChangesOnly p (· = chipAddress p s.q) (drawCell p s.pendAddr s) (startCycle p s) :=
      .of_mem_write (by rw [startCycle_of_busy hb]; rfl)
    exact (hold.mono fun _ hx => .inl ⟨hb, hx⟩).trans (hnew.mono fun _ => .inr)

theorem chipTick_iterate_quiet (p : Params) (n : Nat) (s : State) : Quiet p s ((chipTick p)^[n] s) := by
  induction n with
  | zero => exact .refl p s
  | succ n ih =>
    rw [Function.iterate_succ_apply']
    exact ih.trans (chipTick_quiet p _)

/-- The two cells an overlapped write draws (R56). -/
theorem startCycle_cell_of_busy (hs : Memory.Sorted s.mem) (hb : s.busy = true) (x : CellAddress) :
    (startCycle p s).cell p x =
      if x = chipAddress p s.q then p.cellByte (s.draws + 1)
      else if x = s.pendAddr then p.cellByte s.draws else s.cell p x := by
  rw [startCycle_of_busy hb, ← drawCell_cell hs]
  exact drawCell_cell (s := drawCell p s.pendAddr s) (memory_write_sorted hs _ _) _ x

theorem atWeHigh_quiet (p : Params) (s : State) : Quiet p s (atWeHigh p s) :=
  (chipTick_iterate_quiet p 3 s).congr rfl rfl rfl

/-- A pulse starts a write to the address the chip sees (R53). -/
theorem wrPulse_started (p : Params) (s : State) :
    (wrPulse p s).pendAddr = chipAddress p s.q ∧ Started p s (wrPulse p s) := by
  have hquiet := atWeHigh_quiet p s
  have haddr : (wrPulse p s).pendAddr = chipAddress p s.q := by
    rw [wrPulse_eq]
    exact startCycle_pendAddr p _
  have hmem : (wrPulse p s).mem = (startCycle p (atWeHigh p s)).mem := by rw [wrPulse_eq, emit_mem]
  have hcells := (startCycle_changesOnly p (atWeHigh p s)).trans (.of_mem_eq hmem)
  rw [show (atWeHigh p s).q = s.q from rfl, ← haddr] at hcells
  have hevents : ∃ es : List Event, (wrPulse p s).trace = s.trace ++ es ∧ .weHigh ∈ es :=
    ⟨[.weLow, .waitWp, .weHigh], by simp [wrPulse_eq, atWeHigh, State.withChip], by simp⟩
  exact ⟨haddr, hevents,
    (hquiet.cells.mono fun _ => .inl).trans (hcells.mono fun _ => Or.imp_left hquiet.inProgress)⟩

end

section
variable {p : Params} {s : State}

/-- A cycle that outlasts the pulse is still in progress at WE_HIGH. -/
theorem atWeHigh_of_outlasts (hb : s.busy = true) (hn : Outlasts 3 s) :
    (atWeHigh p s).busy = true ∧ (atWeHigh p s).mem = s.mem := by
  rw [atWeHigh, chipTick_iterate_of_outlasts hb hn]
  exact ⟨hb, rfl⟩

/-- A cycle that ends within the pulse has ended at WE_HIGH. -/
theorem atWeHigh_of_ends (hb : s.busy = true) {d : Nat} (hc : s.cycleLeft = some d) (hd : d < 3) :
    (atWeHigh p s).busy = false ∧ (atWeHigh p s).mem = (finishCycle p s).mem := by
  rw [atWeHigh, chipTick_iterate_of_ends hb hc hd]
  exact ⟨rfl, rfl⟩

end

/-- Settles O18: three events of the chip, then the start of a write cycle on the chip they leave. -/
theorem overlappedWriteIsDrawn : Obligations.OverlappedWriteIsDrawn := by
  intro p s hp hb hm
  obtain ⟨haddr, -, hcells⟩ := wrPulse_started p s
  have hpend : (atWeHigh p s).pendAddr = s.pendAddr := (atWeHigh_quiet p s).pendAddr
  rw [phaseStep_of_wrPulse p hp]
  refine ⟨by simp [wrPulse_eq], haddr, ?_, fun x hnew hold => hcells.cell_eq hm.1 ?_, fun hn => ?_,
    fun n hc hn => ?_⟩
  · rw [wrPulse_eq]
    exact startCycle_pendVal p _
  · rintro (⟨-, hx⟩ | hx)
    · exact hold hx
    · exact hnew (hx.trans haddr)
  · obtain ⟨hbusy, hmem⟩ := atWeHigh_of_outlasts (p := p) hb hn
    have hcell (x : CellAddress) : (wrPulse p s).cell p x =
        if x = chipAddress p s.q then p.cellByte (s.draws + 1)
        else if x = s.pendAddr then p.cellByte s.draws else (atWeHigh p s).cell p x := by
      rw [wrPulse_eq, ← hpend]
      exact startCycle_cell_of_busy (s := atWeHigh p s) (hmem ▸ hm.1) hbusy x
    refine ⟨by simp [hcell], fun hne => by simp [hcell, hne], ?_⟩
    rw [wrPulse_eq, startCycle_of_busy hbusy]
    exact ⟨rfl, rfl, rfl⟩
  · obtain ⟨hbusy, hmem⟩ := atWeHigh_of_ends (p := p) hb hc hn
    rw [wrPulse_eq, startCycle_of_not_busy hbusy]
    refine ⟨fun ho => ?_, rfl, rfl, rfl⟩
    calc (atWeHigh p s).cell p s.pendAddr
      _ = (finishCycle p s).cell p s.pendAddr := by rw [State.cell, hmem, State.cell]
      _ = s.pendVal := (finishCycle_cell hm.1 ho _).trans (if_pos rfl)

/-! ### A step (R226) -/

/-- The phases of a command that come after its pulse, and IDLE. -/
def Phase.AfterPulse (h : Phase) : Prop :=
  h = .wcDir ∨ h = .wcLatch ∨ h = .wcSample ∨ h = .wcWait ∨ h = .idle

/-- From s to t no write started, or one did and its pulse is over. -/
def WritesAtMostOnce (p : Params) (s t : State) : Prop :=
  Quiet p s t ∨ Started p s t ∧ t.phase.AfterPulse

section
variable {p : Params} {s t u : State}

theorem phaseStep_afterPulse (p : Params) (h : s.phase.AfterPulse) :
    (phaseStep p s).phase.AfterPulse := by
  have hnext := phasesInOrder p s
  unfold Phase.AfterPulse at *
  rcases h with h | h | h | h | h <;> simp only [h] at hnext <;> tauto

theorem phaseStep_writesAtMostOnce (p : Params) (htrace : s.trace <+: u.trace)
    (h : WritesAtMostOnce p s u) : WritesAtMostOnce p s (phaseStep p u) := by
  rcases h with hquiet | ⟨hstarted, hph⟩
  · by_cases hp : u.phase = .wrPulse
    · rw [phaseStep_of_wrPulse p hp]
      exact .inr ⟨hquiet.trans_started htrace (wrPulse_started p u).2, .inl rfl⟩
    · exact .inl (hquiet.trans (phaseStep_quiet p hp))
  · have hp : u.phase ≠ .wrPulse := by
      rintro hp
      simp [Phase.AfterPulse, hp] at hph
    exact .inr ⟨hstarted.trans_quiet (phaseStep_quiet p hp) (phaseStep_trace p u),
      phaseStep_afterPulse p hph⟩

theorem runPhases_writesAtMostOnce (p : Params) (n : Nat) (s : State) :
    WritesAtMostOnce p s (runPhases p n s) :=
  (runPhases_induction (P := fun u => s.trace <+: u.trace ∧ WritesAtMostOnce p s u)
    (fun u h => ⟨h.1.trans (phaseStep_trace p u), phaseStep_writesAtMostOnce p h.1 h.2⟩) n
    ⟨List.prefix_rfl, .inl (.refl p s)⟩).2

theorem runs_writesAtMostOnce (h : Runs s t) : WritesAtMostOnce Config.hardware s t := by
  cases h with
  | setAddress a oe => exact .inl (setAddress_quiet _ a oe s)
  | answer r => exact .inl ⟨rfl, id, .of_mem_eq rfl⟩
  | raise c w i => exact .inl ⟨rfl, id, .of_mem_eq rfl⟩
  | read a n _ => exact runPhases_writesAtMostOnce _ n (startRead a s)
  | write a v n _ => exact runPhases_writesAtMostOnce _ n (startWrite a v s)

theorem step_writesAtMostOnce (h : step s = .next t) : WritesAtMostOnce Config.hardware s t := by
  rcases step_cases h with ⟨-, rfl⟩ | ⟨-, rfl⟩ | ⟨-, ws, port, hr⟩
  · exact runPhases_writesAtMostOnce _ 1 s
  · exact .inl (chipTick_quiet _ s)
  · exact runs_writesAtMostOnce (s := { s with pending := ws, latchPort := port }) hr

end

/-- Settles O53: a step starts no write, or one with its WE_HIGH. -/
theorem onlyPendingCellsChange : Obligations.OnlyPendingCellsChange := by
  intro s t hsafe hstep x hx
  obtain ⟨⟨hm, -⟩, -⟩ := hsafe
  rcases step_writesAtMostOnce hstep with ⟨-, -, hcells⟩ | ⟨⟨hevents, hcells⟩, -⟩
  · exact .inl ((hcells hm).2 x hx)
  · exact ((hcells hm).2 x hx).imp_right fun h => ⟨h, hevents⟩

/-! ## READ (R125 to R127) -/

/-- The latch word with output enable asserted is the address itself (R85). -/
theorem latchWord_true (a : Address) : latchWord a true = a := by
  rw [latchWord_eq]
  simp

theorem exec_read_of_idle {s : State} (hp : s.phase = .idle) (a : Address) :
    exec (.read a) s = .next (readCommand Config.hardware a s) := by
  simp [exec, execRead, hp]

/-- The controller before READ's samples (R125). -/
def readBus (a : Address) (s : State) : State :=
  { latched a true s with
    dir := 0x00#8
    opAddr := a
    phase := .rdSample
    trace := s.trace ++ [.dirIn, .latch (latchWord a true)] }

/-- READ is two events and the eight samples, on every chip. -/
theorem readCommand_eq {p : Params} {a : Address} (ha : inRange p a) (s : State) :
    readCommand p a s = rdSample p ((readBus a s).withChip ((chipTick p)^[2] s)) := by
  have hdir : rdDir p (startRead a s) =
      State.withChip { s with phase := .rdLatch, opAddr := a, dir := 0x00#8, trace := s.trace ++ [.dirIn] }
        (chipTick p s) := by
    rw [rdDir, show dirIn p (startRead a s) = _ from dirIn_withChip p (startRead a s) s]
    rfl
  rw [readCommand_phases p ha, hdir, rdLatch, setAddress_withChip]
  simp [readBus, State.withChip, emit, latched]

/-- READ on a sound idle chip returns the cell (R52, R127). -/
theorem readCommand_of_not_busy {p : Params} {a : Address} {s : State} (hp : s.phase = .idle)
    (ha : inRange p a) (hb : s.busy = false) (hf : s.faulty = false) :
    readCommand p a s = { latched a true s with
      dir := 0x00#8
      opAddr := a
      trace := s.trace ++ readEvents a (s.cell p (a.setWidth 15))
      results := s.results ++ [.okByte (s.cell p (a.setWidth 15))] } := by
  have hbytes := sampleByte_of_not_busy (p := p) (s := readBus a s) hb hf rfl
    (outputEnableN_latchWord ha true)
  have hcell : (readBus a s).cell p (chipAddress p (readBus a s).q) = s.cell p (a.setWidth 15) := by
    rw [readBus, latched, chipAddress_latchWord ha]
    rfl
  rw [hcell] at hbytes
  have hchip : (readBus a s).withChip ((chipTick p)^[2] s) = readBus a s := by
    rw [chipTick_iterate_of_not_busy hb]
    rfl
  rw [readCommand_eq ha, hchip, rdSample, hbytes]
  simp [answer, readBus, readEvents, latched, hp]

/-- Settles O19: the closed form of READ on a sound idle chip. -/
theorem readOnIdleChip : Obligations.ReadOnIdleChip := by
  intro a s hp ha hb hf
  rw [exec_read_of_idle hp, readCommand_of_not_busy hp ha hb hf]
  simp [latched, latchWord_true, readEvents]

/-! ### The eight samples, line by line -/

/-- One of READ's samples: its level comes in as the byte's lowest bit (R125). -/
def sampleInto (p : Params) (acc : Byte × State) (i : Nat) : Byte × State :=
  ((acc.1 <<< 1) ||| bitWord 8 (sample p i acc.2).1, (sample p i acc.2).2)

theorem getLsbD_shift_bitWord (d : Byte) (b : Bool) {j : Nat} (hj : j < 8) :
    ((d <<< 1) ||| bitWord 8 b).getLsbD j = if j = 0 then b else d.getLsbD (j - 1) := by
  have hbit : (bitWord 8 b).getLsbD j = (decide (j = 0) && b) := by
    cases b
    · simp [bitWord]
    · rw [show bitWord 8 true = 1#8 from rfl, BitVec.getLsbD_one]
      by_cases h : j = 0 <;> simp [h]
  rw [BitVec.getLsbD_or, BitVec.getLsbD_shiftLeft, hbit]
  by_cases h : j = 0
  · simp [h]
  · have h1 : ¬ j < 1 := by omega
    simp [h, h1, hj]

/-- Samples of the lines n - 1 down to 0, where P k holds before the sample of line k - 1 and fixes its
level: they come in above one another, and the byte before them moves up by n bits. -/
theorem sampleInto_foldl {p : Params} {P : Nat → State → Prop} {f : Nat → Bool}
    (hP : ∀ k u, k < 8 → P (k + 1) u → (sample p k u).1 = f k ∧ P k (sample p k u).2) :
    ∀ n ≤ 8, ∀ acc : Byte × State, P n acc.2 →
      P 0 ((List.range n).reverse.foldl (sampleInto p) acc).2 ∧
        ∀ i < 8, ((List.range n).reverse.foldl (sampleInto p) acc).1.getLsbD i =
          if i < n then f i else acc.1.getLsbD (i - n) := by
  intro n
  induction n with
  | zero => exact fun _ acc h => ⟨h, by simp⟩
  | succ n ih =>
    intro hn acc h
    obtain ⟨hlevel, hnext⟩ := hP n acc.2 hn h
    obtain ⟨hend, hbits⟩ := ih (by omega) (sampleInto p acc n) hnext
    rw [List.range_succ, List.reverse_append, List.reverse_singleton, List.singleton_append,
      List.foldl_cons]
    refine ⟨hend, fun i hi => ?_⟩
    rw [hbits i hi, sampleInto, hlevel, getLsbD_shift_bitWord _ _ (by omega)]
    rcases lt_trichotomy i n with h | rfl | h
    · rw [if_pos h, if_pos (by omega)]
    · simp
    · rw [if_neg (by omega), if_neg (by omega), if_neg (by omega), Nat.sub_sub]

/-- The byte and the end of READ's eight samples, where P k holds before the sample of line k - 1 and fixes
its level. -/
theorem sampleByte_levels {p : Params} {P : Nat → State → Prop} {f : Nat → Bool}
    (hP : ∀ k u, k < 8 → P (k + 1) u → (sample p k u).1 = f k ∧ P k (sample p k u).2) {s : State}
    (h : P 8 s) :
    P 0 (sampleByte p s).2 ∧ ∀ i < 8, (sampleByte p s).1.getLsbD i = f i := by
  obtain ⟨hend, hbits⟩ := sampleInto_foldl hP 8 le_rfl (0#8, s) h
  exact ⟨hend, fun i hi => (hbits i hi).trans (if_pos hi)⟩

/-! ### READ on every chip -/

section
variable {p : Params} {s : State}

@[simp] theorem sample_faulty (p : Params) (i : Nat) (s : State) :
    (sample p i s).2.faulty = s.faulty := by rw [sample_frame]

/-- A faulty chip answers every sample with the next draw (R126). -/
theorem sample_of_faulty (hf : s.faulty = true) (hd : s.dir = 0x00#8) (i : Nat) :
    (sample p i s).1 = p.lineBit s.draws ∧ (sample p i s).2.draws = s.draws + 1 := by
  have hlevel := lineLevel_faulty (p := p) (s := chipTick p s) (by simpa using hf) i (by simpa using hd)
  simp [sample, hlevel, drawBit]

/-- A faulty chip with k of its eight samples to come: each one so far took a draw. -/
def FaultyAfter (s : State) (k : Nat) (u : State) : Prop :=
  u.faulty = true ∧ u.dir = 0x00#8 ∧ u.draws = s.draws + (8 - k)

theorem sample_faultyAfter {k : Nat} {u : State} (hk : k < 8) (h : FaultyAfter s (k + 1) u) :
    (sample p k u).1 = p.lineBit (s.draws + (7 - k)) ∧ FaultyAfter s k (sample p k u).2 := by
  obtain ⟨hf, hd, hn⟩ := h
  obtain ⟨hlevel, hdraws⟩ := sample_of_faulty (p := p) hf hd k
  have h7 : 8 - (k + 1) = 7 - k := by omega
  rw [hn, h7] at hlevel hdraws
  exact ⟨hlevel, by simpa using hf, by simpa using hd, by omega⟩

/-- The byte read from a faulty chip is eight draws, D7 the first. -/
theorem sampleByte_of_faulty (hf : s.faulty = true) (hd : s.dir = 0x00#8) :
    (sampleByte p s).2.draws = s.draws + 8 ∧
      ∀ i < 8, (sampleByte p s).1.getLsbD i = p.lineBit (s.draws + (7 - i)) := by
  obtain ⟨⟨-, -, hdraws⟩, hbits⟩ := sampleByte_levels (p := p) (P := FaultyAfter s)
    (f := fun i => p.lineBit (s.draws + (7 - i))) (fun k u hk => sample_faultyAfter hk) ⟨hf, hd, rfl⟩
  exact ⟨hdraws, hbits⟩

end

/-- Settles O20: two events and eight samples, of which the last fix the byte and none changes another cell
than the pending one. -/
theorem readCompletes : Obligations.ReadCompletes := by
  intro a s hp ha hm
  rw [exec_read_of_idle hp, readCommand_eq ha, rdSample]
  generalize hu : (readBus a s).withChip ((chipTick Config.hardware)^[2] s) = u
  refine ⟨_, (sampleByte Config.hardware u).1, rfl, ?_, fun hf => ?_, fun x hx => ?_⟩
  · have hframe := sampleByte_frame Config.hardware u
    rw [sampleByte_trace] at hframe
    generalize sampleByte Config.hardware u = r at hframe ⊢
    subst hu
    rw [hframe]
    simp [answer, readBus, State.withChip, latched, latchWord_true, readEvents, hp]
  · subst hu
    exact sampleByte_of_faulty (s := (readBus a s).withChip _) hf rfl
  · have hquiet : Quiet Config.hardware s u :=
      (chipTick_iterate_quiet _ 2 s).congr (hu ▸ rfl) (hu ▸ rfl) (hu ▸ rfl)
    exact (hquiet.trans (sampleByte_quiet _ u)).cells.cell_eq hm.1 fun h => hx h.2

/-! ### READ on a busy chip -/

/-- The state u is u₀ some samples later: its cycle outlasts k more events, and the draw counter is d. -/
def SamplesLater (u₀ : State) (k d : Nat) (u : State) : Prop :=
  Outlasts k u ∧ ∃ c es, u = { u₀ with cycleLeft := c, draws := d, trace := es }

/-- A sound busy chip ready to be sampled, with the lines as inputs and output enable asserted. -/
structure SoundBusy (u : State) : Prop where
  busy : u.busy = true
  clean : u.overlapped = false
  sound : u.faulty = false
  dir : u.dir = 0x00#8
  enabled : outputEnableN u.q = false

section
variable {p : Params} {u₀ u : State} {k d i : Nat}

theorem Outlasts.not_ending (h : Outlasts (k + 1) u) : u.busy = true → u.cycleLeft ≠ some 0 :=
  fun _ hc => absurd (h 0 hc) (by omega)

/-- A sample that the cycle outlasts takes an event off the count. -/
theorem sample_samplesLater (hb : u₀.busy = true) (h : SamplesLater u₀ (k + 1) d u) (i : Nat) :
    SamplesLater u₀ k (sample p i u).2.draws (sample p i u).2 := by
  obtain ⟨hk, c, es, hu⟩ := h
  obtain ⟨n, hn⟩ := sample_state p u i
  have htick : chipTick p u = { u with cycleLeft := u.cycleLeft.map (· - 1) } :=
    chipTick_iterate_of_outlasts (n := 1) (hu ▸ hb) (hk.mono (by omega))
  have hleft : (sample p i u).2.cycleLeft = u.cycleLeft.map (· - 1) := by rw [hn, htick]
  refine ⟨fun e he => ?_, u.cycleLeft.map (· - 1), u.trace ++ [.sample i (sample p i u).1], ?_⟩
  · obtain ⟨e', he', rfl⟩ := Option.map_eq_some_iff.mp (hleft.symm.trans he)
    have := hk e' he'
    omega
  · rw [hn, htick, hu]

/-- A sound busy chip shows the complement of the written bit on D7 of the pending address (R54). -/
theorem sample_pending (hs : SoundBusy u₀) (h : SamplesLater u₀ (k + 1) d u)
    (ha : chipAddress p u₀.q = u₀.pendAddr) :
    (sample p 7 u).1 = (!u₀.pendVal.getLsbD 7) ∧ (sample p 7 u).2.draws = d := by
  obtain ⟨hb, ho, hf, hd, hq⟩ := hs
  obtain ⟨hk, c, es, rfl⟩ := h
  obtain ⟨-, -, -, hsound⟩ := sampleLevels p 7 _ (by omega) hk.not_ending
  obtain ⟨hd7, -⟩ := hsound (by simp [hd]) hq hf
  exact hd7 hb ho ha rfl

/-- Any other line of it, and any line at another address, is a draw (R54). -/
theorem sample_drawn (hs : SoundBusy u₀) (h : SamplesLater u₀ (k + 1) d u) (hi : i < 8)
    (ha : chipAddress p u₀.q ≠ u₀.pendAddr ∨ i ≠ 7) :
    (sample p i u).1 = p.lineBit d ∧ (sample p i u).2.draws = d + 1 := by
  obtain ⟨hb, ho, hf, hd, hq⟩ := hs
  obtain ⟨hk, c, es, rfl⟩ := h
  obtain ⟨-, -, -, hsound⟩ := sampleLevels p i _ hi hk.not_ending
  obtain ⟨-, hdrawn, -⟩ := hsound (by simp [hd]) hq hf
  exact hdrawn hb (.inr ha)

/-- The eight samples of a chip whose cycle outlasts them, where the draw counter is D k before that of line
k - 1: MEM is as before, and the byte has the levels the samples show. -/
theorem sampleByte_samplesLater {D : Nat → Nat} {f : Nat → Bool} (hb : u₀.busy = true)
    (hn : Outlasts 8 u₀) (hD : D 8 = u₀.draws)
    (hlevel : ∀ k u, k < 8 → SamplesLater u₀ (k + 1) (D (k + 1)) u →
      (sample p k u).1 = f k ∧ (sample p k u).2.draws = D k) :
    (sampleByte p u₀).2.mem = u₀.mem ∧ (sampleByte p u₀).2.draws = D 0 ∧
      ∀ i < 8, (sampleByte p u₀).1.getLsbD i = f i := by
  have hP (k : Nat) (u : State) (hk : k < 8) (h : SamplesLater u₀ (k + 1) (D (k + 1)) u) :
      (sample p k u).1 = f k ∧ SamplesLater u₀ k (D k) (sample p k u).2 := by
    obtain ⟨hbit, hdraws⟩ := hlevel k u hk h
    exact ⟨hbit, hdraws ▸ sample_samplesLater hb h k⟩
  obtain ⟨⟨-, c, es, hend⟩, hbits⟩ := sampleByte_levels (P := fun k => SamplesLater u₀ k (D k)) hP
    ⟨hn, u₀.cycleLeft, u₀.trace, by rw [hD]⟩
  rw [hend]
  exact ⟨rfl, rfl, hbits⟩

/-- The byte read at the pending address: D7, then seven draws (R126). -/
theorem sampleByte_pending (hs : SoundBusy u) (hn : Outlasts 8 u)
    (ha : chipAddress p u.q = u.pendAddr) :
    (sampleByte p u).2.mem = u.mem ∧ (sampleByte p u).2.draws = u.draws + 7 ∧
      ∀ i < 8, (sampleByte p u).1.getLsbD i =
        if i = 7 then !u.pendVal.getLsbD 7 else p.lineBit (u.draws + (6 - i)) := by
  refine sampleByte_samplesLater (D := fun k => u.draws + (7 - k)) hs.busy hn rfl fun k t hk ht => ?_
  by_cases h7 : k = 7
  · subst h7
    exact sample_pending hs ht ha
  · obtain ⟨hlevel, hdraws⟩ := sample_drawn hs ht hk (.inr h7)
    have hk6 : 7 - (k + 1) = 6 - k := by omega
    rw [if_neg h7, hlevel, hdraws, hk6]
    exact ⟨rfl, by omega⟩

/-- The byte read at another address of a busy chip: eight draws (R126). -/
theorem sampleByte_drawn (hs : SoundBusy u) (hn : Outlasts 8 u)
    (ha : chipAddress p u.q ≠ u.pendAddr) :
    (sampleByte p u).2.mem = u.mem ∧ (sampleByte p u).2.draws = u.draws + 8 ∧
      ∀ i < 8, (sampleByte p u).1.getLsbD i = p.lineBit (u.draws + (7 - i)) := by
  refine sampleByte_samplesLater (D := fun k => u.draws + (8 - k)) hs.busy hn rfl fun k t hk ht => ?_
  obtain ⟨hlevel, hdraws⟩ := sample_drawn hs ht hk (.inl ha)
  have hk7 : 8 - (k + 1) = 7 - k := by omega
  rw [hlevel, hdraws, hk7]
  exact ⟨rfl, by omega⟩

end

/-- Settles O21: two events pass before the eight samples, and the cycle outlasts them all. -/
theorem readWhileBusy : Obligations.ReadWhileBusy := by
  intro a s hp ha hb ho hf hn
  have h2 : Outlasts 2 s := fun d hd => le_trans (by omega) (hn d hd)
  let u := (readBus a s).withChip { s with cycleLeft := s.cycleLeft.map (· - 2) }
  have hs : SoundBusy u := ⟨hb, ho, hf, rfl, outputEnableN_latchWord ha true⟩
  have h8 : Outlasts 8 u := fun d hd => by
    obtain ⟨e, he, rfl⟩ := Option.map_eq_some_iff.mp hd
    have := hn e he
    omega
  have haddr : chipAddress Config.hardware u.q = a.setWidth 15 := chipAddress_latchWord ha true
  have hres : (rdSample Config.hardware u).results =
      s.results ++ [.okByte (sampleByte Config.hardware u).1] := by
    rw [rdSample, answer_results, sampleByte_results]
    rfl
  rw [exec_read_of_idle hp, readCommand_eq ha, chipTick_iterate_of_outlasts hb h2]
  rcases eq_or_ne s.pendAddr (a.setWidth 15) with h | h
  · obtain ⟨hmem, hdraws, hbits⟩ := sampleByte_pending hs h8 (haddr.trans h.symm)
    refine ⟨_, _, rfl, hres, hmem, fun _ => ⟨hbits 7 (by omega), hdraws, fun i hi => ?_⟩,
      fun hne => absurd h hne⟩
    exact (hbits i (by omega)).trans (if_neg (by omega))
  · obtain ⟨hmem, hdraws, hbits⟩ := sampleByte_drawn hs h8 (haddr.trans_ne h.symm)
    exact ⟨_, _, rfl, hres, hmem, fun heq => absurd heq h, fun _ => ⟨hdraws, hbits⟩⟩

/-! ## WRITE on a chip that is not busy (R128, R140)

After the pulse, the state in the poll loop is a fixed one beside a chip some events on; a sample mismatches
as long as the cycle outlasts it, and matches from then on. -/

/-- WRITE(a, v) with its write cycle just started on a chip that was not busy, and the registers as its poll
loop has them. -/
def writeStarted (p : Params) (a : Address) (v : Byte) (s : State) : State :=
  { afterWriteBus a v s with
    phase := .wcSample
    polls := 0
    busy := true
    cycleLeft := p.cycleEvents s.draws
    overlapped := false
    trace := s.trace ++ writeEvents a v }

/-- The registers of w after j mismatching samples of its poll loop, each with its wait (R146). -/
def polledBus (w : State) (j : Nat) : State :=
  { w with polls := w.polls + j, trace := w.trace ++ busyPolls w.opVal j }

/-- The poll loop that begins with the registers of w, after j mismatching samples, where the chip of w is n
events on. -/
def polled (p : Params) (w : State) (n j : Nat) : State :=
  (polledBus w j).withChip ((chipTick p)^[n] w)

section
variable (p : Params) (c s : State)

theorem wcDir_withChip : wcDir p (c.withChip s) =
    State.withChip { c with dir := 0x00#8, phase := .wcLatch, trace := c.trace ++ [.dirIn] }
      (chipTick p s) := by
  rw [wcDir, dirIn_withChip]
  rfl

theorem wcLatch_withChip : wcLatch p (c.withChip s) =
    State.withChip
      { latched c.opAddr true c with
        polls := 0, phase := .wcSample, trace := c.trace ++ [.latch (latchWord c.opAddr true)] }
      (chipTick p s) := by
  rw [wcLatch, show (c.withChip s).opAddr = c.opAddr from rfl, setAddress_withChip]
  rfl

/-- The pulse on a chip that is not busy starts a clean write cycle (R53). -/
theorem wrPulse_of_not_busy {s : State} (hb : s.busy = false) : wrPulse p s =
    { s with
      weN := true
      phase := .wcDir
      busy := true
      pendAddr := chipAddress p s.q
      pendVal := s.dout
      cycleLeft := p.cycleEvents s.draws
      overlapped := false
      draws := s.draws + 1
      trace := s.trace ++ [.weLow, .waitWp, .weHigh] } := by
  have hu : atWeHigh p s = { s with weN := true, trace := s.trace ++ [.weLow, .waitWp] } := by
    rw [atWeHigh, chipTick_iterate_of_not_busy hb]
    rfl
  rw [wrPulse_eq, startCycle_of_not_busy (hu ▸ hb), hu]
  simp [emit]

end

/-- The registers of WRITE(a, v) once its value is on the lines (R128). -/
def writeDriven (a : Address) (v : Byte) (s : State) : State :=
  { latched a false s with
    dir := 0xFF#8
    dout := v
    opAddr := a
    opVal := v
    phase := .wrPulse
    trace := s.trace ++ [.latch (latchWord a false), .dirOut, .drive v] }

/-- The first three phases on a chip that is not busy. -/
theorem wrDrive_of_not_busy (p : Params) (a : Address) (v : Byte) {s : State} (hb : s.busy = false) :
    wrDrive p (wrDir p (wrLatch p (startWrite a v s))) = writeDriven a v s := by
  simp [wrDrive, wrDir, wrLatch, drive, dirOut, setAddress_eq, chipTick, hb, startWrite, latched, emit,
    driveLines_eq, writeDriven]

/-- The first six phases on a chip that is not busy: two events pass between the start of the cycle and the
poll loop. -/
theorem writePhases_of_not_busy {p : Params} {a : Address} (ha : inRange p a) (v : Byte) {s : State}
    (hb : s.busy = false) :
    runPhases p 6 (startWrite a v s) = polled p (writeStarted p a v s) 2 0 := by
  have hpulse : wrPulse p (writeDriven a v s) =
      State.withChip
        { writeDriven a v s with
          weN := true, phase := .wcDir, draws := s.draws + 1
          trace := (writeDriven a v s).trace ++ [.weLow, .waitWp, .weHigh] }
        (writeStarted p a v s) := by
    rw [wrPulse_of_not_busy p (s := writeDriven a v s) hb]
    simp [State.withChip, writeStarted, writeDriven, afterWriteBus, latched, chipAddress_latchWord ha]
  rw [writePhases, wrDrive_of_not_busy p a v hb, hpulse, wcDir_withChip, wcLatch_withChip]
  simp [polled, polledBus, State.withChip, writeStarted, writeDriven, afterWriteBus, latched, writeEvents,
    busyPolls]

/-! ### One sample of the poll loop -/

/-- A WRITE in its poll loop on the sound chip it is writing. -/
structure Polling (p : Params) (w : State) : Prop extends SoundBusy w where
  phase : w.phase = .wcSample
  addressed : chipAddress p w.q = w.pendAddr
  value : w.pendVal = w.opVal

theorem writeStarted_polling {p : Params} {a : Address} (ha : inRange p a) (v : Byte) {s : State}
    (hf : s.faulty = false) : Polling p (writeStarted p a v s) :=
  ⟨⟨rfl, rfl, hf, rfl, outputEnableN_latchWord ha true⟩, rfl, chipAddress_latchWord ha true, rfl⟩

section
variable {p : Params} {w : State} {n j : Nat}

theorem lineLevel_of_not_busy {s : State} (hb : s.busy = false) (hf : s.faulty = false)
    (hd : s.dir = 0x00#8) (hq : outputEnableN s.q = false) (i : Nat) :
    lineLevel p i s = ((s.cell p (chipAddress p s.q)).getLsbD i, s) := by
  simp [lineLevel, hb, hf, hd, hq]

/-- A sample that the cycle outlasts shows the complement of the value's D7 (R54). -/
theorem sample_polled_of_outlasts (h : Polling p w) (hn : Outlasts (n + 1) w) :
    sample p 7 (polled p w n j) = (!w.opVal.getLsbD 7,
      (emit (.sample 7 (!w.opVal.getLsbD 7)) (polledBus w j)).withChip ((chipTick p)^[n + 1] w)) := by
  obtain ⟨⟨hb, ho, hf, hd, hq⟩, -, ha, hv⟩ := h
  have hlevel : lineLevel p 7 ((polledBus w j).withChip ((chipTick p)^[n + 1] w)) =
      (!w.opVal.getLsbD 7, (polledBus w j).withChip ((chipTick p)^[n + 1] w)) := by
    rw [chipTick_iterate_of_outlasts hb hn, ← hv]
    exact lineLevel_polling (s := (polledBus w j).withChip _) hb ho hf hd hq ha
  rw [sample, polled, chipTick_withChip, ← Function.iterate_succ_apply' (chipTick p), hlevel]
  rfl

/-- From the end of the cycle on, a sample shows the value's D7 (R52, R55). -/
theorem sample_polled_of_ends (h : Polling p w) (hs : Memory.Sorted w.mem) {d : Nat}
    (hc : w.cycleLeft = some d) (hd : d < n + 1) :
    sample p 7 (polled p w n j) = (w.opVal.getLsbD 7,
      (emit (.sample 7 (w.opVal.getLsbD 7)) (polledBus w j)).withChip (finishCycle p w)) := by
  obtain ⟨⟨hb, ho, hf, hdir, hq⟩, -, ha, hv⟩ := h
  have hcell : (finishCycle p w).cell p (chipAddress p w.q) = w.opVal := by
    rw [finishCycle_cell hs ho, if_pos ha, hv]
  have hlevel : lineLevel p 7 ((polledBus w j).withChip (finishCycle p w)) =
      (w.opVal.getLsbD 7, (polledBus w j).withChip (finishCycle p w)) := by
    rw [← hcell]
    exact lineLevel_of_not_busy (s := (polledBus w j).withChip (finishCycle p w)) rfl hf hdir hq 7
  rw [sample, polled, chipTick_withChip, ← Function.iterate_succ_apply' (chipTick p),
    chipTick_iterate_of_ends hb hc hd, hlevel]
  rfl

/-! ### The poll loop (R140, R143, R146) -/

theorem pollBoundReached_of_none (h : p.pollMax = none) (m : Nat) : pollBoundReached p m = false := by
  simp [pollBoundReached, h]

theorem pollBoundReached_of_some {m : Nat} (h : p.pollMax = some m) (n : Nat) :
    pollBoundReached p n = decide (m ≤ n) := by
  simp [pollBoundReached, h]

theorem pollBoundReached_mono {m n : Nat} (hmn : m ≤ n) (h : pollBoundReached p n = false) :
    pollBoundReached p m = false := by
  cases hmax : p.pollMax with
  | none => exact pollBoundReached_of_none hmax m
  | some k =>
    rw [pollBoundReached_of_some hmax, decide_eq_false_iff_not] at h ⊢
    omega

theorem busyPolls_succ (v : Byte) (j : Nat) :
    busyPolls v (j + 1) = busyPolls v j ++ [.sample 7 (!v.getLsbD 7), .waitPoll] := by
  simp [busyPolls, List.replicate_succ']

theorem phaseStep_polled (h : Polling p w) :
    phaseStep p (polled p w n j) = wcSample p (polled p w n j) := by
  have hph : (polled p w n j).phase = .wcSample := h.phase
  simp [phaseStep, hph]

/-- A mismatching sample below the bound, and its wait. -/
theorem runPhases_two_polled (h : Polling p w) (hn : Outlasts (n + 1) w)
    (hm : pollBoundReached p (w.polls + (j + 1)) = false) :
    runPhases p 2 (polled p w n j) = polled p w (n + 2) (j + 1) := by
  have hsample : wcSample p (polled p w n j) =
      State.withChip
        { emit (.sample 7 (!w.opVal.getLsbD 7)) (polledBus w j) with
          polls := w.polls + (j + 1), phase := .wcWait }
        ((chipTick p)^[n + 1] w) := by
    rw [wcSample, sample_polled_of_outlasts h hn]
    simp [polledBus, State.withChip, add_assoc, hm]
  have hwait : wcWait p (wcSample p (polled p w n j)) = polled p w (n + 2) (j + 1) := by
    rw [hsample, wcWait, waitPoll_withChip, ← Function.iterate_succ_apply' (chipTick p)]
    simp [polled, polledBus, State.withChip, emit, busyPolls_succ, h.phase]
  have hphase : (wcSample p (polled p w n j)).phase = .wcWait := by rw [hsample]; rfl
  rw [runPhases, phaseStep_polled h, runPhases, phaseStep, hphase, runPhases]
  exact hwait

/-- k mismatching samples below the bound, each with its wait. -/
theorem runPhases_polled (h : Polling p w) {k : Nat} (hn : ∀ j < k, Outlasts (n + 2 * j + 1) w)
    (hm : pollBoundReached p (w.polls + k) = false) :
    runPhases p (2 * k) (polled p w n 0) = polled p w (n + 2 * k) k := by
  induction k with
  | zero => rfl
  | succ k ih =>
    rw [Nat.mul_succ, runPhases_add,
      ih (fun j hj => hn j (by omega)) (pollBoundReached_mono (by omega) hm)]
    exact runPhases_two_polled h (hn k (by omega)) hm

end

section
variable {p : Params} {a : Address} {v : Byte} {s : State} {k : Nat}

/-- The first matching sample returns Ok. -/
theorem wcSample_writeStarted_ok (ha : inRange p a) (hf : s.faulty = false) (hs : Memory.Sorted s.mem)
    {d : Nat} (hd : p.cycleEvents s.draws = some d) (hk : d < 2 + 2 * k + 1) :
    wcSample p (polled p (writeStarted p a v s) (2 + 2 * k) k) = afterWriteOk p a v k s := by
  have haddr : a.toNat % 32768 = a.toNat := toNat_setWidth ha
  rw [wcSample, sample_polled_of_ends (writeStarted_polling ha v hf) hs hd hk]
  simp [polledBus, State.withChip, writeStarted, afterWriteOk, afterWriteBus, latched, answer, okPolls,
    finishCycle, emit, haddr]

/-- The sample that reaches the bound raises WriteTimeout if the cycle outlasts it. -/
theorem wcSample_writeStarted_timeout (ha : inRange p a) (hf : s.faulty = false)
    (hm : p.pollMax = some (k + 1)) (hn : Outlasts (2 + 2 * k + 1) (writeStarted p a v s)) :
    wcSample p (polled p (writeStarted p a v s) (2 + 2 * k) k) =
      afterWriteTimeout p a v (k + 1) ((p.cycleEvents s.draws).map (· - (2 + 2 * k + 1))) s := by
  have haddr : a.toNat % 32768 = a.toNat := toNat_setWidth ha
  rw [wcSample, sample_polled_of_outlasts (writeStarted_polling ha v hf) hn,
    chipTick_iterate_of_outlasts rfl hn]
  simp [polledBus, State.withChip, writeStarted, afterWriteTimeout, afterWriteBus, latched, timeoutPolls,
    pollBoundReached_of_some hm, raise, unsettle, drawCell, emit, haddr]

/-! ### The poll loop as a whole -/

theorem pollMax_pos {m : Nat} (h : p.pollMax = some m) : 0 < m := by
  obtain ⟨k, -, rfl⟩ := Option.map_eq_some_iff.mp h
  exact k.succ_pos

theorem pollBudget_of_some {m : Nat} (h : p.pollMax = some m) (u : State) : pollBudget p u = m := by
  simp [pollBudget, h]

theorem pollBudget_of_none (h : p.pollMax = none) (u : State) :
    pollBudget p u = u.cycleLeft.getD 0 + 1 := by
  simp [pollBudget, h]

/-- The poll loop that returns Ok after k busy samples, with phases to spare. -/
theorem runPhases_writeStarted_ok (ha : inRange p a) (hf : s.faulty = false) (hs : Memory.Sorted s.mem)
    {d n : Nat} (hd : p.cycleEvents s.draws = some d)
    (hm : pollBoundReached p (busySamples d) = false) (hn : 2 * busySamples d + 1 ≤ n) :
    runPhases p n (polled p (writeStarted p a v s) 2 0) = afterWriteOk p a v (busySamples d) s := by
  obtain ⟨r, rfl⟩ := Nat.exists_eq_add_of_le hn
  have hbusy : busySamples d = (d - 1) / 2 := rfl
  have hlast (j : Nat) (hj : j < busySamples d) : Outlasts (2 + 2 * j + 1) (writeStarted p a v s) :=
    .of_le hd (by omega)
  have hpoll := writeStarted_polling ha v hf
  rw [runPhases_add, runPhases_add, runPhases_polled hpoll hlast (by simpa [writeStarted] using hm),
    runPhases, runPhases, phaseStep_polled hpoll, wcSample_writeStarted_ok ha hf hs hd (by omega)]
  exact runPhases_idle rfl r

/-- The poll loop with a bound that the cycle outlasts raises WriteTimeout. -/
theorem runPhases_writeStarted_timeout (ha : inRange p a) (hf : s.faulty = false) {m : Nat}
    (hm : p.pollMax = some m) (hn : Outlasts (2 * m + 1) (writeStarted p a v s)) :
    runPhases p (2 * m) (polled p (writeStarted p a v s) 2 0) =
      afterWriteTimeout p a v m ((p.cycleEvents s.draws).map (· - (2 * m + 1))) s := by
  obtain ⟨k, rfl⟩ := Nat.exists_eq_add_of_le' (pollMax_pos hm)
  have hk : 2 * (k + 1) + 1 = 2 + 2 * k + 1 := by omega
  rw [hk] at hn ⊢
  have hlast (j : Nat) (hj : j < k) : Outlasts (2 + 2 * j + 1) (writeStarted p a v s) := hn.mono (by omega)
  have hbound : pollBoundReached p ((writeStarted p a v s).polls + k) = false := by
    simp [pollBoundReached_of_some hm, writeStarted]
  have hpoll := writeStarted_polling ha v hf
  rw [Nat.mul_succ, runPhases_add, runPhases_polled hpoll hlast hbound, runPhases, phaseStep_polled hpoll,
    wcSample_writeStarted_timeout ha hf hm hn]
  exact runPhases_idle rfl 1

/-- The unbounded loop on a chip that never finishes is still in flight after a sample and a wait. -/
theorem runPhases_writeStarted_hang (ha : inRange p a) (hf : s.faulty = false) (hm : p.pollMax = none)
    (hc : p.cycleEvents s.draws = none) :
    runPhases p 2 (polled p (writeStarted p a v s) 2 0) = afterWriteHang a v s := by
  have hnever (n : Nat) : Outlasts n (writeStarted p a v s) := .of_never hc n
  rw [runPhases_two_polled (writeStarted_polling ha v hf) (hnever 3) (pollBoundReached_of_none hm _),
    polled, chipTick_iterate_of_outlasts rfl (hnever 4)]
  simp [polledBus, State.withChip, writeStarted, afterWriteHang, afterWriteBus, hc]

/-- What is left of the cycle when the poll loop begins. -/
theorem polled_writeStarted_cycleLeft :
    (polled p (writeStarted p a v s) 2 0).cycleLeft =
      (p.cycleEvents s.draws).bind fun d => if 2 ≤ d then some (d - 2) else none := by
  show ((chipTick p)^[2] (writeStarted p a v s)).cycleLeft = _
  rcases outlasts_or_ends 2 (writeStarted p a v s) with hn | ⟨d, hd, hlt⟩
  · rw [chipTick_iterate_of_outlasts rfl hn]
    show (p.cycleEvents s.draws).map _ = _
    cases hc : p.cycleEvents s.draws with
    | none => rfl
    | some d => simp [hn d hc]
  · have hc : p.cycleEvents s.draws = some d := hd
    rw [chipTick_iterate_of_ends rfl hd hlt, hc]
    simp [hlt]

/-- WRITE on a sound chip that was not busy, in closed form, at any configuration (R143, R144, R146). -/
theorem writeCommand_of_not_busy (ha : inRange p a) (hb : s.busy = false) (hf : s.faulty = false)
    (hs : Memory.Sorted s.mem) : writeCommand p a v s = afterWrite p a v s := by
  have hphases : writeCommand p a v s =
      runPhases p (2 * pollBudget p (polled p (writeStarted p a v s) 2 0))
        (polled p (writeStarted p a v s) 2 0) := by
    rw [writeCommand, if_pos ha, writePhases_of_not_busy ha v hb]
  have hleft := polled_writeStarted_cycleLeft (p := p) (a := a) (v := v) (s := s)
  rw [hphases, afterWrite]
  cases hc : p.cycleEvents s.draws with
  | none =>
    cases hm : p.pollMax with
    | none =>
      rw [pollBudget_of_none hm, hleft, hc]
      exact runPhases_writeStarted_hang ha hf hm hc
    | some m =>
      rw [pollBudget_of_some hm, runPhases_writeStarted_timeout ha hf hm (.of_never hc _), hc]
      rfl
  | some d =>
    have hbusy : busySamples d = (d - 1) / 2 := rfl
    cases hm : p.pollMax with
    | none =>
      refine runPhases_writeStarted_ok ha hf hs hc (pollBoundReached_of_none hm _) ?_
      rw [pollBudget_of_none hm, hleft, hc, Option.bind_some]
      split <;> simp <;> omega
    | some m =>
      rw [pollBudget_of_some hm]
      by_cases hk : busySamples d < m
      · have hbound : pollBoundReached p (busySamples d) = false := by
          simpa [pollBoundReached_of_some hm] using hk
        simp only [if_pos hk]
        exact runPhases_writeStarted_ok ha hf hs hc hbound (by omega)
      · have hpos := pollMax_pos hm
        have hn : Outlasts (2 * m + 1) (writeStarted p a v s) := .of_le hc (by omega)
        simp only [if_neg hk]
        rw [runPhases_writeStarted_timeout ha hf hm hn, hc]
        rfl

/-- The three ends of WRITE on a sound chip that was not busy (R144, R146). -/
theorem afterWrite_cases (p : Params) (a : Address) (v : Byte) (s : State) :
    (∃ k, afterWrite p a v s = afterWriteOk p a v k s) ∨
      (∃ m left, afterWrite p a v s = afterWriteTimeout p a v m left s) ∨
      afterWrite p a v s = afterWriteHang a v s := by
  unfold afterWrite
  split
  · exact .inl ⟨_, rfl⟩
  · split
    · exact .inl ⟨_, rfl⟩
    · exact .inr (.inl ⟨_, _, rfl⟩)
  · exact .inr (.inl ⟨_, _, rfl⟩)
  · exact .inr (.inr rfl)

end

/-- Settles O25: WRITE's closed form where the chip is still busy at the bound. -/
theorem timeoutAtThePollBound : Obligations.TimeoutAtThePollBound := by
  intro p a v s m hp ha hb hf hm hmax hlast
  have hend : ∃ left, afterWrite p a v s = afterWriteTimeout p a v m left s := by
    unfold afterWrite
    rw [hmax]
    cases hc : p.cycleEvents s.draws with
    | none => exact ⟨none, rfl⟩
    | some d => exact ⟨_, if_neg (Nat.not_lt.mpr (hlast d hc))⟩
  obtain ⟨left, hend⟩ := hend
  have hcell (x : CellAddress) : (afterWriteTimeout p a v m left s).cell p x =
      if x = a.setWidth 15 then p.cellByte (s.draws + 1) else s.cell p x :=
    cell_of_mem_write hm.1 (by rw [toNat_setWidth ha]; rfl) x
  rw [writeCommand_of_not_busy ha hb hf hm.1, hend]
  refine ⟨rfl, rfl, rfl, rfl, rfl, rfl, ?_, fun x hx => ?_, rfl, latchWord_true a, latchWord_true a, rfl,
    rfl, rfl, ?_⟩
  · rw [hcell, if_pos rfl]
  · rw [hcell, if_neg hx]
  · simp [afterWriteTimeout, timeoutPolls]

/-- Settles O27: of the ends of WRITE only Ok has that result, and there the cell holds the value and the
chip is not busy, so that READ finds it. -/
theorem writeThenReadReturnsValue : Obligations.WriteThenReadReturnsValue := by
  intro p a v s hp ha hb hf hm hres
  rw [writeCommand_of_not_busy ha hb hf hm.1] at hres ⊢
  rcases afterWrite_cases p a v s with ⟨k, e⟩ | ⟨m, left, e⟩ | e <;> rw [e] at hres ⊢
  · have hcell : (afterWriteOk p a v k s).cell p (a.setWidth 15) = v :=
      (cell_of_mem_write hm.1 (by rw [toNat_setWidth ha]; rfl) _).trans (if_pos rfl)
    have hread := readCommand_of_not_busy (s := afterWriteOk p a v k s) rfl ha rfl hf
    rw [hread, hcell]
    exact ⟨rfl, rfl, List.append_assoc _ _ _⟩
  · simp [afterWriteTimeout] at hres
  · simp [afterWriteHang, afterWriteBus] at hres

end Sys2Proof.Machine
end

section
/-! PROOFS of the encoding family: the decoder and the encoder (O1 to O5), steps that take a latch word (O7,
O11, O12), unions of control lines (O42), and the host's sequences of READs and WRITEs (O57, O58, O60). -/

namespace Sys2Proof.Machine

/-! ## The fields of a command word (R81) -/

section
variable (op : BitVec 4) (a : Address) (v : Byte) (w : CommandWord)

@[simp] theorem opField_commandWord : opField (commandWord op a v) = op := by
  rw [opField, commandWord, BitVec.extractLsb'_append_eq_of_le (by omega),
    BitVec.extractLsb'_append_eq_of_le (by omega)]
  exact BitVec.extractLsb'_append_eq_left

@[simp] theorem rsvdField_commandWord : rsvdField (commandWord op a v) = 0#4 := by
  rw [rsvdField, commandWord, BitVec.extractLsb'_append_eq_of_le (by omega),
    BitVec.extractLsb'_append_eq_of_le (by omega)]
  exact BitVec.extractLsb'_append_eq_right

@[simp] theorem addrField_commandWord : addrField (commandWord op a v) = a := by
  rw [addrField, commandWord, BitVec.extractLsb'_append_eq_of_le (by omega)]
  exact BitVec.extractLsb'_append_eq_right

@[simp] theorem valueField_commandWord : valueField (commandWord op a v) = v :=
  BitVec.extractLsb'_append_eq_right

/-- The four fields are all there is of a command word. -/
theorem fields_append : opField w ++ rsvdField w ++ addrField w ++ valueField w = w := by
  rw [opField, rsvdField, BitVec.extractLsb'_append_extractLsb'_eq_extractLsb' (by omega), addrField,
    BitVec.extractLsb'_append_extractLsb'_eq_extractLsb' (by omega), valueField,
    BitVec.extractLsb'_append_extractLsb'_eq_extractLsb' (by omega)]
  exact BitVec.extractLsb'_eq_self

/-- A word is made of given fields exactly where it has them, and a zero RSVD field. -/
theorem commandWord_eq_iff : commandWord op a v = w ↔
    opField w = op ∧ rsvdField w = 0#4 ∧ addrField w = a ∧ valueField w = v := by
  constructor
  · rintro rfl
    simp
  · rintro ⟨rfl, hr, rfl, rfl⟩
    rw [commandWord, ← hr, fields_append]

end

/-- The decoder of command words inverts the encoder (R93, R94): a branch that accepts a word has compared each
of its fields with the row's, or taken it as an operand. -/
theorem decodeCommand_eq_ok_iff (w : CommandWord) (i : Instr) :
    decodeCommand w = .ok i ↔ encode i = .command w := by
  constructor
  · intro h
    unfold decodeCommand at h
    split_ifs at h <;> cases h <;>
      exact congrArg Wire.command ((commandWord_eq_iff _ _ _ w).mpr (by simp_all))
  · intro h
    cases i <;> cases h <;> simp [decodeCommand]

/-! ## The fields of a latch word (R85) -/

/-- The low 15 bits of a latch word are the address's. -/
theorem extractLsb'_latchWord (a : Address) (oe : Bool) :
    (latchWord a oe).extractLsb' 0 15 = a.setWidth 15 := by
  apply BitVec.eq_of_toNat_eq
  simpa using latchWord_low a oe

/-- A latch word is made of its low 15 bits and the level of OE_N. -/
theorem latchWord_of_fields (w : LatchWord) :
    latchWord ((w.extractLsb' 0 15).setWidth 16) (!w.getLsbD 15) = w := by
  apply BitVec.eq_of_getLsbD_eq
  intro j hj
  rw [getLsbD_latchWord _ _ hj]
  by_cases h : j = 15
  · subst h
    simp
  · have hlt : j < 15 := by omega
    simp [h, hlt, hj]

/-- The decoder of latch words inverts the encoder on the addresses of the chip (R85, R93, R110). -/
theorem decodeLatch_eq_ok_iff (p : Params) (w : LatchWord) (i : Instr) :
    decodeLatch p w = .ok i ↔ i.WellFormed p ∧ encode i = .latch w := by
  simp only [decodeLatch, ne_eq, reserved_zero_iff]
  constructor
  · intro h
    split_ifs at h with hr
    cases h
    refine ⟨?_, congrArg Wire.latch (latchWord_of_fields w)⟩
    rw [Instr.WellFormed, Instr.wellFormed, decide_eq_true_iff, BitVec.toNat_setWidth_of_le (by omega)]
    exact hr
  · rintro ⟨hi, hw⟩
    cases i <;> cases hw
    next a oe =>
      have ha : inRange p a := by simpa [Instr.WellFormed, Instr.wellFormed] using hi
      have haddr : (a.setWidth 15).setWidth 16 = a := by
        apply BitVec.eq_of_toNat_eq
        rw [BitVec.toNat_setWidth, toNat_setWidth ha]
        exact Nat.mod_eq_of_lt a.isLt
      have hoe : (latchWord a oe).getLsbD 15 = !oe := outputEnableN_latchWord ha oe
      rw [extractLsb'_latchWord, toNat_setWidth ha, if_neg (not_not.mpr ha), haddr, hoe, Bool.not_not]

/-- The decoder inverts the encoder, in both formats. -/
theorem decode_eq_ok_iff (p : Params) (x : Wire) (i : Instr) :
    decode p x = .ok i ↔ i.WellFormed p ∧ encode i = x := by
  cases x with
  | command w =>
    have hwf : encode i = .command w → i.WellFormed p := by
      cases i <;> simp [encode, Instr.WellFormed, Instr.wellFormed]
    rw [decode, decodeCommand_eq_ok_iff, iff_and_self]
    exact hwf
  | latch w => exact decodeLatch_eq_ok_iff p w i

/-- Settles O1: an encoded well-formed instruction is what its own word decodes to. -/
theorem decodeOfEncode : Obligations.DecodeOfEncode :=
  fun p i hi => (decode_eq_ok_iff p (encode i) i).mpr ⟨hi, rfl⟩

/-- Settles O2: the same equivalence, read the other way. -/
theorem encodeOfDecode : Obligations.EncodeOfDecode :=
  fun p x i => (decode_eq_ok_iff p x i).mp

/-! ## The words of the spec (R94, R206) -/

/-- The word R94 writes with shifts is the word made of its fields. -/
theorem shifted_fields (op : BitVec 4) (a : Address) (v : Byte) :
    (op.setWidth 32 <<< 28) ||| (a.setWidth 32 <<< 8) ||| v.setWidth 32 = commandWord op a v := by
  apply BitVec.eq_of_getLsbD_eq
  intro j hj
  simp only [commandWord, BitVec.getLsbD_append, BitVec.getLsbD_or, BitVec.getLsbD_shiftLeft,
    BitVec.getLsbD_setWidth]
  interval_cases j <;> simp

/-- Settles O3: each typed call is the encoded command. -/
theorem typedCallsDecode : Obligations.TypedCallsDecode := by
  refine ⟨fun a => ?_, fun a v => ?_, rfl, rfl⟩
  · have hw : (1#32 <<< 28) ||| (a.setWidth 32 <<< 8) = commandWord 1#4 a 0#8 := by
      simpa using shifted_fields 1#4 a 0#8
    rw [decodeCommand_eq_ok_iff, hw, encode]
  · exact (decodeCommand_eq_ok_iff _ _).mpr (congrArg Wire.command (shifted_fields 2#4 a v).symm)

/-- Settles O5: the decoder computes on each of the eight words. -/
theorem tableWordsDecode : Obligations.TableWordsDecode :=
  ⟨rfl, rfl, rfl, rfl, rfl, rfl, rfl, rfl⟩

/-- Settles O4: the decoder's branches that end in an error are those of R206's words. -/
theorem decoderRefusesExactly : Obligations.DecoderRefusesExactly := by
  intro w
  change _ ↔ (opField w ≠ 1#4 ∧ opField w ≠ 2#4 ∧ opField w ≠ 3#4 ∧ opField w ≠ 4#4) ∨
    rsvdField w ≠ 0#4 ∨
    (opField w = 1#4 ∧ valueField w ≠ 0#8) ∨
    ((opField w = 3#4 ∨ opField w = 4#4) ∧ (addrField w ≠ 0#16 ∨ valueField w ≠ 0#8))
  unfold decodeCommand
  split_ifs <;> simp [*]

/-! ## Taking a latch word (R83, R91 (d)) -/

/-- At IDLE a step issues the word in the latch port, and empties it. -/
theorem step_of_latch {s : State} {w : LatchWord} (hp : s.phase = .idle) (hl : s.latchPort = some w) :
    step s = issueLatch w { s with latchPort := none } := by
  simp [step, hp, hl]

/-- Issuing a latch word that decodes is exec of what it decodes to. -/
theorem issueLatch_of_decode_ok {w : LatchWord} {i : Instr}
    (h : decode Config.hardware (.latch w) = .ok i) (s : State) : issueLatch w s = exec i s := by
  simp [issueLatch, h]

/-- Settles O7: the latch word of an address in range decodes to its SET_ADDRESS. -/
theorem stepRunsLatchWord : Obligations.StepRunsLatchWord := by
  intro s a oe hp ha hl
  rw [step_of_latch hp hl, issueLatch_of_decode_ok]
  exact (decode_eq_ok_iff _ _ _).mpr ⟨decide_eq_true ha, rfl⟩

/-! ## The outcomes of a step (R200, R207) -/

/-- At IDLE every instruction has a next state. -/
theorem exec_of_idle {s : State} (hp : s.phase = .idle) (i : Instr) : ∃ t, exec i s = .next t := by
  cases i with
  | read a => exact ⟨_, if_pos hp⟩
  | write a v => exact ⟨_, if_pos hp⟩
  | genDisplay => exact ⟨_, if_pos hp⟩
  | genMicrocode => exact ⟨_, if_pos hp⟩
  | setAddress a oe => exact ⟨_, rfl⟩

theorem issue_of_idle {s : State} (hp : s.phase = .idle) (w : CommandWord) :
    ∃ t, issue w s = .next t := by
  unfold issue
  split
  · exact exec_of_idle hp _
  · exact ⟨_, rfl⟩

/-- On this hardware the reserved bits of a latch word are bits 14:11 (R85). -/
theorem decodeLatch_hardware (w : LatchWord) :
    decodeLatch Config.hardware w =
      if w.extractLsb' 11 4 ≠ 0#4 then .error .latchRsvdNotZero
      else .ok (.setAddress ((w.extractLsb' 0 15).setWidth 16) (!w.getLsbD 15)) := by
  have hbits : w.extractLsb' 0 15 >>> Config.hardware.addrBits.val = 0#15 ↔ w.extractLsb' 11 4 = 0#4 := by
    rw [reserved_zero_iff, ← BitVec.toNat_inj]
    have hsize : Config.hardware.romSize = 2048 := rfl
    simp only [BitVec.extractLsb'_toNat, Nat.shiftRight_eq_div_pow, hsize, BitVec.toNat_ofNat]
    omega
  simp only [decodeLatch, ne_eq, hbits]

/-- The state offers the AddressLatch a latch word with a non-zero reserved bit, which no instruction has. -/
def OffersReservedLatch (s : State) : Prop :=
  s.phase = .idle ∧ ∃ w : LatchWord, s.latchPort = some w ∧ w.extractLsb' 11 4 ≠ 0#4

/-- A latch word is refused for a reserved bit, or is a SET_ADDRESS and completes. -/
theorem issueLatch_cases (w : LatchWord) (s : State) :
    (w.extractLsb' 11 4 ≠ 0#4 ∧ issueLatch w s = .refused .latchRsvdNotZero) ∨
      (w.extractLsb' 11 4 = 0#4 ∧ ∃ t, issueLatch w s = .next t) := by
  rw [issueLatch, decode, decodeLatch_hardware]
  by_cases h : w.extractLsb' 11 4 = 0#4
  · exact .inr ⟨h, by simp [h, exec, execSetAddress]⟩
  · exact .inl ⟨h, by simp [h]⟩

/-- A step is refused for a reserved latch bit, or has a next state. -/
theorem step_outcome (s : State) :
    (OffersReservedLatch s ∧ step s = .refused .latchRsvdNotZero) ∨
      (¬ OffersReservedLatch s ∧ ∃ t, step s = .next t) := by
  by_cases hp : s.phase = .idle
  case neg => exact .inr ⟨fun h => hp h.1, phaseStep Config.hardware s, by simp [step, hp]⟩
  cases hl : s.latchPort with
  | some w =>
    rw [step_of_latch hp hl]
    rcases issueLatch_cases w { s with latchPort := none } with ⟨hw, h⟩ | ⟨hw, h⟩
    · exact .inl ⟨⟨hp, w, hl, hw⟩, h⟩
    · exact .inr ⟨by simp [OffersReservedLatch, hl, hw], h⟩
  | none =>
    refine .inr ⟨by simp [OffersReservedLatch, hl], ?_⟩
    cases hw : s.pending with
    | nil => exact ⟨_, step_of_waiting hp hl hw⟩
    | cons w ws =>
      rw [step_of_command hp hl hw]
      exact issue_of_idle (s := { s with pending := ws }) hp w

/-- Settles O11: a step has one of two outcomes, and which one is decided by the latch port. -/
theorem stepNeverFaults : Obligations.StepNeverFaults := by
  intro s
  rcases step_outcome s with ⟨hoffer, h⟩ | ⟨hoffer, t, h⟩ <;> rw [h]
  · refine ⟨by simp, fun r => ⟨fun hr => ?_, fun hr => ?_⟩⟩
    · cases hr
      exact ⟨rfl, hoffer⟩
    · rw [hr.1]
  · exact ⟨by simp, fun r => iff_of_false (by simp) fun hr => hoffer hr.2⟩

/-! ## SET_ADDRESS as an instruction (R110) -/

/-- Settles O12: SET_ADDRESS is the chip's tick and the latched registers. -/
theorem setAddressLatches : Obligations.SetAddressLatches := by
  intro a oe s
  have hser : (latchWord a oe).getLsbD 0 = a.getLsbD 0 := by
    simp [getLsbD_latchWord a oe, -BitVec.getLsbD_eq_getElem]
  refine ⟨setAddress Config.hardware a oe s, rfl, ?_, fun hb => ?_, fun hm x hx => ?_, fun ha => ?_⟩
  · simp only [setAddress_eq, ← latchWord_eq, ← hser]
    rw [chipTick_frame]
    rfl
  · simp [setAddress_eq, chipTick_of_not_busy hb, latched]
  · exact (setAddress_quiet _ a oe s).cells.cell_eq hm.1 fun h => hx h.2
  · rw [setAddress_eq]
    exact ⟨outputEnableN_latchWord ha oe, chipAddress_latchWord ha oe⟩

/-! ## Unions of control lines (R88, R175) -/

section
variable (p : Params)

theorem lineMask_eq_twoPow (l : ControlLine) : lineMask p l = BitVec.twoPow 16 (p.cwBit l).val :=
  (BitVec.twoPow_eq 16 _).symm

/-- A line's mask holds the bit of that line and of no other, since CW_BIT is one to one. -/
theorem getLsbD_lineMask (k l : ControlLine) :
    (lineMask p k).getLsbD (p.cwBit l).val = true ↔ l = k := by
  rw [lineMask_eq_twoPow, BitVec.getLsbD_twoPow]
  simp [Fin.val_inj, eq_comm]

/-- A word holds a line where it has the line's bit. -/
theorem hasLine_eq_getLsbD (w : ControlWord) (l : ControlLine) :
    hasLine p w l = w.getLsbD (p.cwBit l).val := by
  have hbit : BitVec.twoPow 16 (p.cwBit l).val ≠ 0#16 := by
    intro h
    have hl := (getLsbD_lineMask p l l).mpr rfl
    rw [lineMask_eq_twoPow, h] at hl
    simp at hl
  rw [hasLine, lineMask_eq_twoPow, BitVec.and_twoPow]
  cases w.getLsbD (p.cwBit l).val <;> simp [hbit]

/-- A union's bits are those of the lines added to what it began with. -/
theorem getLsbD_foldl_lineMask (ls : List ControlLine) (w : ControlWord) (l : ControlLine) :
    (ls.foldl (fun w k => w ||| lineMask p k) w).getLsbD (p.cwBit l).val = true ↔
      w.getLsbD (p.cwBit l).val = true ∨ l ∈ ls := by
  induction ls generalizing w with
  | nil => simp
  | cons k ls ih =>
    rw [List.foldl_cons, ih, BitVec.getLsbD_or, Bool.or_eq_true, getLsbD_lineMask, List.mem_cons, or_assoc]

end

/-- Settles O42: a line is in the union where its bit is, and the fold starts without one. -/
theorem controlLinesUnion : Obligations.ControlLinesUnion := by
  intro p ls l
  rw [hasLine_eq_getLsbD, controlWord, getLsbD_foldl_lineMask]
  simp

/-! ## The host after a command (R95) -/

/-- Whether the last result is an error. -/
theorem lastIsErr_of_results {t : State} {rs : List Result} {r : Result} (h : t.results = rs ++ [r]) :
    lastIsErr t = r.isErr := by
  simp [lastIsErr, h]

/-! ## DUMP (R104) -/

/-- READ on a sound idle chip leaves the chip idle and sound, and returns the cell (R127). -/
theorem exec_read_of_not_busy {a : Address} {s : State} (hp : s.phase = .idle)
    (ha : inRange Config.hardware a) (hb : s.busy = false) (hf : s.faulty = false) :
    ∃ u, exec (.read a) s = .next u ∧ u.phase = .idle ∧ u.busy = false ∧ u.faulty = false ∧
      u.mem = s.mem ∧ u.errlog = s.errlog ∧
      u.results = s.results ++ [.okByte (s.cell Config.hardware (a.setWidth 15))] := by
  refine ⟨_, exec_read_of_idle hp a, ?_⟩
  rw [readCommand_of_not_busy hp ha hb hf]
  exact ⟨hp, hb, hf, rfl, rfl, rfl⟩

/-- READs of addresses in range on a sound idle chip return their cells, one after the other. -/
theorem runUntilError_reads (as : List Address) {s : State} (hp : s.phase = .idle) (hb : s.busy = false)
    (hf : s.faulty = false) (has : ∀ a ∈ as, inRange Config.hardware a) :
    ∃ t, runUntilError (as.map .read) s = .next { rest := [], state := t } ∧
      t.results = s.results ++ as.map (fun a => .okByte (s.cell Config.hardware (a.setWidth 15))) ∧
      t.mem = s.mem ∧ t.errlog = s.errlog ∧ t.phase = .idle := by
  induction as generalizing s with
  | nil => exact ⟨s, rfl, by simp, rfl, rfl, hp⟩
  | cons a as ih =>
    obtain ⟨ha, has⟩ := List.forall_mem_cons.mp has
    obtain ⟨u, hexec, hp', hb', hf', hmem, hlog, hres⟩ := exec_read_of_not_busy hp ha hb hf
    obtain ⟨t, hrun, hres', hmem', hlog', hidle⟩ := ih hp' hb' hf' has
    have hok : lastIsErr u = false := lastIsErr_of_results hres
    refine ⟨t, ?_, ?_, hmem'.trans hmem, hlog'.trans hlog, hidle⟩
    · rw [List.map_cons, runUntilError_cons, hexec, thenRun_next, goOn_of_ok hp' hok, hrun]
    · simp [hres', hres, State.cell, hmem]

/-- The bytes among the results of READs. -/
theorem bytesRead_map_okByte (bs : List Byte) : bytesRead (bs.map .okByte) = bs := by
  simp [bytesRead, List.filterMap_map]

/-- DUMP reads the addresses from base upward. -/
theorem dumpCommands_eq (base : Address) (n : Nat) :
    dumpCommands base n = ((List.range n).map fun i => BitVec.ofNat 16 (base.toNat + i)).map .read := by
  simp [dumpCommands, Function.comp_def]

/-- Settles O60: DUMP is READs of addresses in range. -/
theorem dumpReturnsBytes : Obligations.DumpReturnsBytes := by
  intro base n s hp hb hf hn bytes
  have hrange : ∀ a ∈ (List.range n).map fun i => BitVec.ofNat 16 (base.toNat + i),
      inRange Config.hardware a := by
    intro a ha
    obtain ⟨i, hi, rfl⟩ := List.mem_map.mp ha
    have hlt := List.mem_range.mp hi
    have hmod := Nat.mod_le (base.toNat + i) (2 ^ 16)
    rw [inRange, BitVec.toNat_ofNat]
    omega
  obtain ⟨t, hrun, hres, hmem, hlog, hidle⟩ := runUntilError_reads _ hp hb hf hrange
  have hbytes : t.results = s.results ++ bytes.map .okByte := by
    rw [hres]
    simp [bytes, Function.comp_def, BitVec.setWidth_ofNat_of_le]
  refine ⟨t, ?_, hbytes, ?_, hmem, hlog, hidle⟩
  · rw [dump, dumpCommands_eq, hrun]
  · rw [hbytes, List.drop_left, bytesRead_map_okByte]

/-! ## A WRITE in its poll loop, on any chip (R140, R143)

A WRITE issued at u runs its six phases to the poll loop; from there each phase keeps it in the loop or ends
it, by Ok or by the timeout at the bound. -/

/-- WRITE(a, v), issued at u, is at t in its poll loop, or has returned Ok, or has timed out: what the host
sees of it. -/
inductive WriteStage (p : Params) (a : Address) (v : Byte) (u t : State) : Prop
  | polling : t.phase = .wcSample ∨ t.phase = .wcWait → t.opAddr = a → t.opVal = v →
      pollBoundReached p t.polls = false → t.errlog = u.errlog → t.results = u.results →
      WriteStage p a v u t
  | ok : t.phase = .idle → t.errlog = u.errlog → t.results = u.results ++ [.okUnit] →
      WriteStage p a v u t
  | timeout (m : Nat) : p.pollMax = some m → t.phase = .idle →
      t.errlog = u.errlog ++
        [{ code := .writeTimeout, command := commandWord 2#4 a v, info := .timeout a v m }] →
      t.results = u.results ++ [.err .writeTimeout (.timeout a v m)] →
      WriteStage p a v u t

section
variable {p : Params} {a : Address} {v : Byte} {u t : State}

/-- The bound is at least 1 (R8). -/
theorem pollBoundReached_zero (p : Params) : pollBoundReached p 0 = false := by
  cases h : p.pollMax with
  | none => exact pollBoundReached_of_none h 0
  | some m => simpa [pollBoundReached_of_some h] using (pollMax_pos h).ne'

/-- The sample that reaches the bound is the one with its number. -/
theorem pollMax_of_reached {n : Nat} (hbelow : pollBoundReached p n = false)
    (hreached : pollBoundReached p (n + 1) = true) : p.pollMax = some (n + 1) := by
  cases h : p.pollMax with
  | none => simp [pollBoundReached_of_none h] at hreached
  | some m =>
    rw [pollBoundReached_of_some h, decide_eq_false_iff_not] at hbelow
    rw [pollBoundReached_of_some h, decide_eq_true_iff] at hreached
    rw [show m = n + 1 by omega]

/-- The six phases before the poll loop, as the host sees them. -/
theorem writePhases_fields (p : Params) (a : Address) (v : Byte) (u : State) :
    let t := runPhases p 6 (startWrite a v u)
    t.phase = .wcSample ∧ t.polls = 0 ∧ t.opAddr = a ∧ t.opVal = v ∧ t.errlog = u.errlog ∧
      t.results = u.results := by
  simp [writePhases, wcLatch, wcDir, wrPulse, wrDrive, wrDir, wrLatch, setAddress_eq, dirIn, dirOut, drive,
    weHigh, waitWp, weLow]

@[simp] theorem sample_errlog (p : Params) (i : Nat) (s : State) :
    (sample p i s).2.errlog = s.errlog := by rw [sample_frame]

theorem phaseStep_of_wcSample (h : t.phase = .wcSample) : phaseStep p t = wcSample p t := by
  simp [phaseStep, h]

theorem phaseStep_of_wcWait (h : t.phase = .wcWait) : phaseStep p t = wcWait p t := by
  simp [phaseStep, h]

/-- A phase of the loop keeps the WRITE in it or ends it, and no phase runs after the end. -/
theorem writeStage_phaseStep (h : WriteStage p a v u t) : WriteStage p a v u (phaseStep p t) := by
  cases h with
  | ok hp hlog hres =>
    rw [phaseStep_idle hp]
    exact .ok hp hlog hres
  | timeout m hm hp hlog hres =>
    rw [phaseStep_idle hp]
    exact .timeout m hm hp hlog hres
  | polling hp ha hv hbelow hlog hres =>
    rcases hp with hp | hp
    · rw [phaseStep_of_wcSample hp]
      rcases wcSample_cases p t with ⟨-, e⟩ | ⟨-, hreached, e⟩ | ⟨-, hnot, e⟩ <;> rw [e]
      · exact .ok rfl (by simp [hlog]) (by simp [hres])
      · exact .timeout _ (pollMax_of_reached hbelow hreached) rfl (by simp [hlog, ha, hv])
          (by simp [hres, ha, hv])
      · exact .polling (.inr rfl) (by simp [ha]) (by simp [hv]) hnot (by simp [hlog]) (by simp [hres])
    · rw [phaseStep_of_wcWait hp, wcWait, waitPoll]
      exact .polling (.inl rfl) (by simp [ha]) (by simp [hv]) (by simpa using hbelow) (by simp [hlog])
        (by simp [hres])

/-- The loop has ended, or is about to take its sample number j + 1. -/
def EndedOrPolled (j : Nat) (t : State) : Prop :=
  t.phase = .idle ∨ t.phase = .wcSample ∧ t.polls = j

theorem runPhases_two_endedOrPolled {j : Nat} (h : EndedOrPolled j t) :
    EndedOrPolled (j + 1) (runPhases p 2 t) := by
  rcases h with hp | ⟨hp, hj⟩
  · rw [runPhases_idle hp]
    exact .inl hp
  · rw [runPhases, runPhases, runPhases, phaseStep_of_wcSample hp]
    rcases wcSample_cases p t with ⟨-, e⟩ | ⟨-, -, e⟩ | ⟨-, -, e⟩ <;> rw [e]
    · exact .inl rfl
    · exact .inl rfl
    · rw [phaseStep_of_wcWait rfl]
      exact .inr ⟨rfl, by simp [wcWait, waitPoll, hj]⟩

theorem runPhases_endedOrPolled (h : EndedOrPolled 0 t) (k : Nat) :
    EndedOrPolled k (runPhases p (2 * k) t) := by
  induction k with
  | zero => exact h
  | succ k ih =>
    rw [Nat.mul_succ, runPhases_add]
    exact runPhases_two_endedOrPolled ih

/-! ### The WRITE as a command, and after it -/

/-- WRITE(a, v), issued at u, was run as one command, and some phases more if it stayed in flight. -/
def Written (p : Params) (a : Address) (v : Byte) (u t : State) : Prop :=
  ∃ n, t = runPhases p n (writeCommand p a v u)

theorem Written.command (p : Params) (a : Address) (v : Byte) (u : State) :
    Written p a v u (writeCommand p a v u) := ⟨0, rfl⟩

theorem Written.next (h : Written p a v u t) : Written p a v u (phaseStep p t) := by
  obtain ⟨n, rfl⟩ := h
  exact ⟨n + 1, (runPhases_add p n 1 _).symm⟩

theorem writeCommand_of_inRange (ha : inRange p a) (v : Byte) (u : State) :
    writeCommand p a v u = runPhases p (2 * pollBudget p (runPhases p 6 (startWrite a v u)))
      (runPhases p 6 (startWrite a v u)) := if_pos ha

/-- What every phase of the poll loop keeps holds of a WRITE from its first sample on. -/
theorem Written.induction {P : State → Prop} (h : Written p a v u t) (ha : inRange p a)
    (hP : ∀ s, P s → P (phaseStep p s)) (hstart : P (runPhases p 6 (startWrite a v u))) : P t := by
  obtain ⟨n, rfl⟩ := h
  rw [writeCommand_of_inRange ha]
  exact runPhases_induction hP n (runPhases_induction hP _ hstart)

theorem Written.stage (h : Written p a v u t) (ha : inRange p a) : WriteStage p a v u t := by
  obtain ⟨hp, hpolls, hopAddr, hopVal, hlog, hres⟩ := writePhases_fields p a v u
  exact h.induction ha (fun _ => writeStage_phaseStep)
    (.polling (.inl hp) hopAddr hopVal (hpolls ▸ pollBoundReached_zero p) hlog hres)

/-- Only the unbounded loop is in flight after the command (R144). -/
theorem Written.unbounded (h : Written p a v u t) (ha : inRange p a) (hp : t.phase ≠ .idle) :
    p.pollMax = none := by
  obtain ⟨n, rfl⟩ := h
  by_contra hne
  obtain ⟨m, hm⟩ := Option.ne_none_iff_exists'.mp hne
  obtain ⟨hphase, hpolls, -⟩ := writePhases_fields p a v u
  have hend : EndedOrPolled m (writeCommand p a v u) := by
    rw [writeCommand_of_inRange ha, pollBudget_of_some hm]
    exact runPhases_endedOrPolled (.inr ⟨hphase, hpolls⟩) m
  rcases hend with hidle | ⟨hsample, hpolls⟩
  · exact hp (by rw [runPhases_idle hidle]; exact hidle)
  · cases (Written.command p a v u).stage ha with
    | ok hidle => simp [hidle] at hsample
    | timeout _ _ hidle => simp [hidle] at hsample
    | polling _ _ _ hbelow => simp [hpolls, pollBoundReached_of_some hm] at hbelow

/-! ### The chip of a WRITE -/

theorem writePhases_pendAddr (ha : inRange p a) (v : Byte) (u : State) :
    (runPhases p 6 (startWrite a v u)).pendAddr = a.setWidth 15 := by
  simp [writePhases, wcLatch, wcDir, wrDrive, wrDir, wrLatch, setAddress_eq, dirIn, dirOut, drive,
    (wrPulse_started p _).1, latched, chipAddress_latchWord ha]

/-- The chip's pending write is this one: no phase of the poll loop starts another. -/
theorem Written.pendAddr (h : Written p a v u t) (ha : inRange p a) : t.pendAddr = a.setWidth 15 := by
  obtain ⟨hp, -⟩ := writePhases_fields p a v u
  refine (h.induction (P := fun x => x.phase.AfterPulse ∧ x.pendAddr = a.setWidth 15) ha (fun x hx => ?_)
    ⟨.inr (.inr (.inl hp)), writePhases_pendAddr ha v u⟩).2
  obtain ⟨hphase, haddr⟩ := hx
  have hpulse : x.phase ≠ .wrPulse := by
    rintro hx
    simp [Phase.AfterPulse, hx] at hphase
  exact ⟨phaseStep_afterPulse p hphase, (phaseStep_quiet p hpulse).pendAddr.trans haddr⟩

/-- A WRITE changes no cell but its own and that of the write in progress before it (R55, R56). -/
theorem Written.cells (h : Written p a v u t) (ha : inRange p a) :
    ChangesOnly p (fun x => InProgress u x ∨ x = a.setWidth 15) u t := by
  have haddr := h.pendAddr ha
  obtain ⟨n, rfl⟩ := h
  rw [writeCommand_of_inRange ha, ← runPhases_add, ← runPhases_add] at haddr ⊢
  rcases runPhases_writesAtMostOnce p _ (startWrite a v u) with hquiet | ⟨⟨-, hcells⟩, -⟩
  · exact hquiet.cells.mono fun _ => .inl
  · rwa [haddr] at hcells

/-- The unbounded loop on a sound chip that never finishes does not end (R144): if it ended after n phases, it
would have ended after twice as many, when it has taken n samples more. -/
theorem runPhases_afterWriteHang (ha : inRange p a) (v : Byte) (hf : u.faulty = false)
    (hm : p.pollMax = none) (hc : p.cycleEvents u.draws = none) (n : Nat) :
    (runPhases p n (afterWriteHang a v u)).phase ≠ .idle := by
  intro hidle
  have hpoll := writeStarted_polling ha v hf
  have hsamples := runPhases_polled (n := 2) (k := 1 + n) hpoll (fun _ _ => .of_never hc _)
    (pollBoundReached_of_none hm _)
  have htwice : runPhases p (2 * n) (afterWriteHang a v u) = runPhases p n (afterWriteHang a v u) := by
    rw [Nat.two_mul, runPhases_add, runPhases_idle hidle]
  rw [Nat.mul_add, runPhases_add, Nat.mul_one, runPhases_writeStarted_hang ha hf hm hc, htwice] at hsamples
  rw [hsamples] at hidle
  exact absurd (hpoll.phase.symm.trans hidle) (by decide)

/-- Only the unbounded loop on a chip that never finishes is still in flight (R144). -/
theorem never_of_afterWriteHang (h : afterWrite p a v u = afterWriteHang a v u) :
    p.pollMax = none ∧ p.cycleEvents u.draws = none := by
  have hp : (afterWrite p a v u).phase = .wcSample := h ▸ rfl
  unfold afterWrite at hp
  split at hp
  · cases hp
  · split at hp <;> cases hp
  · cases hp
  next hc hm => exact ⟨hm, hc⟩

/-- On a sound chip that was not busy, a WRITE that has returned Ok has stored its byte (R132). -/
theorem Written.stored (h : Written p a v u t) (ha : inRange p a) (hb : u.busy = false)
    (hf : u.faulty = false) (hs : Memory.Sorted u.mem) (hp : t.phase = .idle)
    (hok : lastIsErr t = false) :
    t.busy = false ∧ t.faulty = false ∧ t.cell p (a.setWidth 15) = v := by
  obtain ⟨n, rfl⟩ := h
  rw [writeCommand_of_not_busy ha hb hf hs] at hp hok ⊢
  rcases afterWrite_cases p a v u with ⟨k, e⟩ | ⟨m, left, e⟩ | e
  · rw [e, runPhases_idle rfl]
    refine ⟨rfl, hf, ?_⟩
    rw [cell_of_mem_write hs (by rw [toNat_setWidth ha]; rfl), if_pos rfl]
  · rw [e, runPhases_idle rfl, lastIsErr_of_results rfl] at hok
    cases hok
  · obtain ⟨hm, hc⟩ := never_of_afterWriteHang e
    rw [e] at hp
    exact absurd hp (runPhases_afterWriteHang ha v hf hm hc n)

/-! ### A WRITE among those below an address -/

/-- From s to t no cell changed but those below B, and neither will one by the write in progress. -/
def WritesBelow (p : Params) (B : Nat) (s t : State) : Prop :=
  (t.busy = true → t.pendAddr.toNat < B) ∧ ChangesOnly p (fun x => x.toNat < B) s t

theorem WritesBelow.of_not_busy {s : State} (hb : s.busy = false) (B : Nat) : WritesBelow p B s s :=
  ⟨fun h => absurd (hb.symm.trans h) (by decide), .of_mem_eq rfl⟩

theorem WritesBelow.written {B : Nat} {s : State} (h : WritesBelow p B s u) (hw : Written p a v u t)
    (ha : inRange p a) (hB : a.toNat < B) : WritesBelow p B s t := by
  obtain ⟨hpend, hcells⟩ := h
  have haddr : (a.setWidth 15).toNat < B := (toNat_setWidth ha).trans_lt hB
  refine ⟨fun _ => hw.pendAddr ha ▸ haddr, hcells.trans ((hw.cells ha).mono ?_)⟩
  rintro x (⟨hb, rfl⟩ | rfl)
  · exact hpend hb
  · exact haddr

end

/-! ## BURN (R105) -/

section
variable {img : List Byte} {s u t : State} {k : Nat} {v : Byte} {q : Sequence}

/-- After k WRITEs of a BURN of img from s, each returned Ok, the machine is at u. -/
inductive Burned (img : List Byte) (s : State) : Nat → State → Prop
  | start : Burned img s 0 s
  | next {k : Nat} {v : Byte} {u t : State} : Burned img s k u → img[k]? = some v →
      Written Config.hardware (BitVec.ofNat 16 k) v u t → t.phase = .idle → lastIsErr t = false →
      Burned img s (k + 1) t

/-- A BURN of img from s that stands at the address k: every WRITE has returned Ok, or that to k has raised its
error, or that to k has not returned. -/
inductive BurnAt (img : List Byte) (s : State) : Nat → Sequence → Prop
  | finished {u : State} : Burned img s img.length u → BurnAt img s img.length { rest := [], state := u }
  | failed {k : Nat} {v : Byte} {u t : State} : Burned img s k u → img[k]? = some v →
      Written Config.hardware (BitVec.ofNat 16 k) v u t → t.phase = .idle → lastIsErr t = true →
      BurnAt img s k { rest := [], state := t }
  | inFlight {k : Nat} {v : Byte} {u t : State} : Burned img s k u → img[k]? = some v →
      Written Config.hardware (BitVec.ofNat 16 k) v u t → t.phase ≠ .idle →
      BurnAt img s k { rest := (burnCommands img).drop (k + 1), state := t }

/-- An outcome is a BURN of img from s under way, or at its end. -/
def IsBurn (img : List Byte) (s : State) (o : Host.Outcome Sequence Fault Refusal) : Prop :=
  ∃ q k, o = .next q ∧ BurnAt img s k q

theorem Burned.phase (h : Burned img s k u) (hp : s.phase = .idle) : u.phase = .idle := by
  cases h with
  | start => exact hp
  | next _ _ _ hidle _ => exact hidle

theorem BurnAt.le (h : BurnAt img s k q) : k ≤ img.length := by
  cases h with
  | finished _ => exact le_rfl
  | failed _ hv | inFlight _ hv =>
    obtain ⟨hk, -⟩ := List.getElem?_eq_some_iff.mp hv
    exact hk.le

/-! ### The sequence -/

/-- The address of an image's byte is in range, and is the byte's number. -/
theorem burn_address (hlen : img.length ≤ Config.hardware.romSize) (hv : img[k]? = some v) :
    k < img.length ∧ inRange Config.hardware (BitVec.ofNat 16 k) ∧ (BitVec.ofNat 16 k).toNat = k := by
  obtain ⟨hk, -⟩ := List.getElem?_eq_some_iff.mp hv
  have hsize := romSize_le Config.hardware
  have hmod : (BitVec.ofNat 16 k).toNat = k := by
    rw [BitVec.toNat_ofNat]
    omega
  exact ⟨hk, by rw [inRange, hmod]; omega, hmod⟩

/-- The commands from the address k on: the WRITE to k, and the rest. -/
theorem burnCommands_drop (hv : img[k]? = some v) :
    (burnCommands img).drop k =
      .write (BitVec.ofNat 16 k) v :: (burnCommands img).drop (k + 1) := by
  obtain ⟨hk, rfl⟩ := List.getElem?_eq_some_iff.mp hv
  rw [List.drop_eq_getElem_cons (by simpa [burnCommands] using hk)]
  simp [burnCommands]

/-- Once the WRITE to k has run so far, the host waits, stops or goes on. -/
theorem goOn_written (hu : Burned img s k u) (hv : img[k]? = some v)
    (hw : Written Config.hardware (BitVec.ofNat 16 k) v u t)
    (hnext : Burned img s (k + 1) t → IsBurn img s (runUntilError ((burnCommands img).drop (k + 1)) t)) :
    IsBurn img s (goOn ((burnCommands img).drop (k + 1)) t) := by
  by_cases hp : t.phase = .idle
  · cases he : lastIsErr t with
    | true => exact ⟨_, k, goOn_of_err hp he _, .failed hu hv hw hp he⟩
    | false =>
      rw [goOn_of_ok hp he]
      exact hnext (.next hu hv hw hp he)
  · exact ⟨_, k, goOn_of_in_flight hp _, .inFlight hu hv hw hp⟩

theorem exec_write_of_idle (hp : s.phase = .idle) (a : Address) (v : Byte) :
    exec (.write a v) s = .next (writeCommand Config.hardware a v s) := if_pos hp

/-- The commands from the address k on, by induction on how many they are. -/
theorem runUntilError_burn (hp : s.phase = .idle) (hu : Burned img s k u) (hk : k ≤ img.length) :
    IsBurn img s (runUntilError ((burnCommands img).drop k) u) := by
  induction hr : img.length - k generalizing k u with
  | zero =>
    obtain rfl : k = img.length := by omega
    have hnone : (burnCommands img).drop img.length = [] := by simp [burnCommands]
    rw [hnone]
    exact ⟨_, _, rfl, .finished hu⟩
  | succ r ih =>
    have hlt : k < img.length := by omega
    have hv : img[k]? = some img[k] := List.getElem?_eq_getElem hlt
    rw [burnCommands_drop hv, runUntilError_cons, exec_write_of_idle (hu.phase hp), thenRun_next]
    exact goOn_written hu hv (.command ..) fun hnext => ih hnext hlt (by omega)

theorem resume_burn (hp : s.phase = .idle) (h : BurnAt img s k q) : IsBurn img s (resume q) := by
  cases h with
  | finished hu => exact ⟨_, _, resume_of_idle (hu.phase hp), .finished hu⟩
  | failed hu hv hw hidle he => exact ⟨_, _, resume_of_idle hidle, .failed hu hv hw hidle he⟩
  | inFlight hu hv hw hflight =>
    obtain ⟨hk, -⟩ := List.getElem?_eq_some_iff.mp hv
    rw [resume_of_in_flight hflight]
    exact goOn_written hu hv hw.next fun hnext => runUntilError_burn hp hnext hk

theorem resumeFor_burn (hp : s.phase = .idle) (n : Nat) (h : BurnAt img s k q) :
    IsBurn img s (resumeFor n q) := by
  induction n generalizing k q with
  | zero => exact ⟨q, k, rfl, h⟩
  | succ n ih =>
    obtain ⟨q', k', hres, h'⟩ := resume_burn hp h
    rw [resumeFor, hres, thenRun_next]
    exact ih h'

/-- BURN on any chip, however often it is resumed. -/
theorem burn_resumeFor (hp : s.phase = .idle) (img : List Byte) (n : Nat) :
    IsBurn img s (thenRun (burn img s) (resumeFor n)) := by
  obtain ⟨q, k, hburn, h⟩ := runUntilError_burn (img := img) hp .start (Nat.zero_le _)
  rw [burn, ← List.drop_zero (l := burnCommands img), hburn, thenRun_next]
  exact resumeFor_burn hp n h

/-! ### What the host has received -/

/-- A WRITE that has ended returned Ok, unless the last result is an error. -/
theorem WriteStage.of_ok {p : Params} {a : Address} (h : WriteStage p a v u t) (hp : t.phase = .idle)
    (hok : lastIsErr t = false) : t.errlog = u.errlog ∧ t.results = u.results ++ [.okUnit] := by
  cases h with
  | polling hloop => simp [hp] at hloop
  | ok _ hlog hres => exact ⟨hlog, hres⟩
  | timeout m _ _ _ hres => simp [lastIsErr_of_results hres, Result.isErr] at hok

/-- One that ended with an error timed out at the bound. -/
theorem WriteStage.of_err {p : Params} {a : Address} (h : WriteStage p a v u t) (hp : t.phase = .idle)
    (he : lastIsErr t = true) :
    ∃ m, p.pollMax = some m ∧
      t.errlog = u.errlog ++
        [{ code := .writeTimeout, command := commandWord 2#4 a v, info := .timeout a v m }] ∧
      t.results = u.results ++ [.err .writeTimeout (.timeout a v m)] := by
  cases h with
  | polling hloop => simp [hp] at hloop
  | ok _ _ hres => simp [lastIsErr_of_results hres, Result.isErr] at he
  | timeout m hm _ hlog hres => exact ⟨m, hm, hlog, hres⟩

/-- One that has not ended is in its poll loop, and the host has received nothing. -/
theorem WriteStage.of_in_flight {p : Params} {a : Address} (h : WriteStage p a v u t)
    (hp : t.phase ≠ .idle) :
    (t.phase = .wcSample ∨ t.phase = .wcWait) ∧ t.opAddr = a ∧ t.opVal = v ∧
      t.errlog = u.errlog ∧ t.results = u.results := by
  cases h with
  | polling hloop ha hv _ hlog hres => exact ⟨hloop, ha, hv, hlog, hres⟩
  | ok hidle | timeout _ _ hidle => exact absurd hidle hp

theorem Burned.answers (h : Burned img s k u) (hlen : img.length ≤ Config.hardware.romSize) :
    u.errlog = s.errlog ∧ u.results = s.results ++ List.replicate k .okUnit := by
  induction h with
  | start => simp
  | next _ hv hw hp hok ih =>
    obtain ⟨-, ha, -⟩ := burn_address hlen hv
    obtain ⟨hlog, hres⟩ := (hw.stage ha).of_ok hp hok
    obtain ⟨hlog', hres'⟩ := ih
    exact ⟨hlog.trans hlog', by rw [hres, hres', List.append_assoc, ← List.replicate_succ']⟩

/-! ### What the cells hold -/

theorem Burned.writesBelow (h : Burned img s k u) (hlen : img.length ≤ Config.hardware.romSize)
    (hb : s.busy = false) : WritesBelow Config.hardware img.length s u := by
  induction h with
  | start => exact .of_not_busy hb _
  | next _ hv hw _ _ ih =>
    obtain ⟨hk, ha, hmod⟩ := burn_address hlen hv
    exact ih.written hw ha (hmod.trans_lt hk)

/-- A BURN on a chip that was not busy, sound or not, changes no cell beyond the image. -/
theorem BurnAt.writesBelow (h : BurnAt img s k q) (hlen : img.length ≤ Config.hardware.romSize)
    (hb : s.busy = false) : WritesBelow Config.hardware img.length s q.state := by
  cases h with
  | finished hu => exact hu.writesBelow hlen hb
  | failed hu hv hw | inFlight hu hv hw =>
    obtain ⟨hk, ha, hmod⟩ := burn_address hlen hv
    exact (hu.writesBelow hlen hb).written hw ha (hmod.trans_lt hk)

/-- On a sound chip that was not busy: it is so again, and the cells below k hold their bytes, the others what
they held. -/
structure StoredBelow (img : List Byte) (s : State) (k : Nat) (u : State) : Prop where
  busy : u.busy = false
  sound : u.faulty = false
  sorted : Memory.Sorted u.mem
  stored (x : CellAddress) : x.toNat < k → some (u.cell Config.hardware x) = img[x.toNat]?
  kept (x : CellAddress) : k ≤ x.toNat → u.cell Config.hardware x = s.cell Config.hardware x

/-- A WRITE to k on a sound chip that was not busy changes no cell but that of k. -/
theorem StoredBelow.cell_eq (h : StoredBelow img s k u) (hlen : img.length ≤ Config.hardware.romSize)
    (hv : img[k]? = some v) (hw : Written Config.hardware (BitVec.ofNat 16 k) v u t) {x : CellAddress}
    (hx : x.toNat ≠ k) : t.cell Config.hardware x = u.cell Config.hardware x := by
  obtain ⟨-, ha, hmod⟩ := burn_address hlen hv
  refine (hw.cells ha).cell_eq h.sorted ?_
  rintro (⟨hb, -⟩ | rfl)
  · exact absurd (h.busy.symm.trans hb) (by decide)
  · exact hx ((toNat_setWidth ha).trans hmod)

theorem Burned.storedBelow (h : Burned img s k u) (hlen : img.length ≤ Config.hardware.romSize)
    (hb : s.busy = false) (hf : s.faulty = false) (hs : Memory.Sorted s.mem) : StoredBelow img s k u := by
  induction h with
  | start => exact ⟨hb, hf, hs, fun _ h => absurd h (Nat.not_lt_zero _), fun _ _ => rfl⟩
  | @next k v u t _ hv hw hp hok ih =>
    obtain ⟨-, ha, hmod⟩ := burn_address hlen hv
    obtain ⟨hbusy, hfaulty, hcell⟩ := hw.stored ha ih.busy ih.sound ih.sorted hp hok
    have haddr : ((BitVec.ofNat 16 k).setWidth 15).toNat = k := (toNat_setWidth ha).trans hmod
    refine ⟨hbusy, hfaulty, ((hw.cells ha) ih.sorted).1, fun x hx => ?_, fun x hx => ?_⟩
    · rcases Nat.lt_succ_iff_lt_or_eq.mp hx with hx | hx
      · rw [ih.cell_eq hlen hv hw hx.ne, ih.stored x hx]
      · obtain rfl : x = (BitVec.ofNat 16 k).setWidth 15 := BitVec.eq_of_toNat_eq (hx.trans haddr.symm)
        rw [hcell, hx, hv]
    · rw [ih.cell_eq hlen hv hw (Nat.ne_of_gt hx), ih.kept x (Nat.le_of_succ_le hx)]

/-- The cells of a BURN that stands at k, on a sound chip that was not busy. -/
theorem BurnAt.cells (h : BurnAt img s k q) (hlen : img.length ≤ Config.hardware.romSize)
    (hb : s.busy = false) (hf : s.faulty = false) (hs : Memory.Sorted s.mem) :
    (∀ x : CellAddress, x.toNat < k → some (q.state.cell Config.hardware x) = img[x.toNat]?) ∧
      ∀ x : CellAddress, k < x.toNat ∨ img.length ≤ x.toNat →
        q.state.cell Config.hardware x = s.cell Config.hardware x := by
  cases h with
  | finished hu =>
    have hcells := hu.storedBelow hlen hb hf hs
    exact ⟨hcells.stored, fun x hx => hcells.kept x (by omega)⟩
  | failed hu hv hw | inFlight hu hv hw =>
    obtain ⟨hk, -⟩ := List.getElem?_eq_some_iff.mp hv
    have hcells := hu.storedBelow hlen hb hf hs
    refine ⟨fun x hx => ?_, fun x hx => ?_⟩
    · rw [hcells.cell_eq hlen hv hw hx.ne, hcells.stored x hx]
    · rw [hcells.cell_eq hlen hv hw (by omega), hcells.kept x (by omega)]

end

/-- Settles O57: every resumption leaves a BURN under way or at its end, and what the host has received and the
cells hold is that of the WRITEs so far. -/
theorem burnStoresImage : Obligations.BurnStoresImage := by
  refine ⟨fun img s n hp hlen => ?_, fun q t hflight hstep => ?_⟩
  · obtain ⟨q, k, hrun, h⟩ := burn_resumeFor hp img n
    refine ⟨q, k, hrun, h.le, ?_, fun hb hf hm => h.cells hlen hb hf hm.1⟩
    cases h with
    | finished hu =>
      obtain ⟨hlog, hres⟩ := hu.answers hlen
      exact .inl ⟨rfl, rfl, hu.phase hp, hlog, hres⟩
    | failed hu hv hw hidle he =>
      obtain ⟨hlog, hres⟩ := hu.answers hlen
      obtain ⟨-, ha, -⟩ := burn_address hlen hv
      obtain ⟨m, hm, hlog', hres'⟩ := (hw.stage ha).of_err hidle he
      exact .inr (.inl ⟨_, m, hv, hm, rfl, hidle, hlog ▸ hlog', hres ▸ hres'⟩)
    | inFlight hu hv hw hflight =>
      obtain ⟨hlog, hres⟩ := hu.answers hlen
      obtain ⟨hk, ha, -⟩ := burn_address hlen hv
      obtain ⟨hloop, haddr, hval, hlog', hres'⟩ := (hw.stage ha).of_in_flight hflight
      exact .inr (.inr ⟨hk, hw.unbounded ha hflight, rfl, hloop, haddr, hval ▸ hv, hlog'.trans hlog,
        hres'.trans hres⟩)
  · have hresume : resume q = goOn q.rest t := by rw [resume, if_neg hflight, hstep, thenRun_next]
    rw [hresume]
    exact ⟨fun hp => goOn_of_in_flight hp _, fun hp he => goOn_of_err hp he _,
      fun hp hok => goOn_of_ok hp hok _⟩

/-- GEN_DISPLAY at IDLE only adds its image to the results (R160). -/
theorem exec_genDisplay_of_idle {s : State} (hp : s.phase = .idle) :
    exec .genDisplay s =
      .next { s with results := s.results ++ [.okImage (displayImage Config.hardware)] } := by
  rw [← answer_of_idle hp]
  exact if_pos hp

/-- A generator that returns an image, then BURN of it (R101, R102). -/
theorem burnGenerated_of_image {gen : Instr} {s : State} {img : List Byte}
    (h : exec gen s = .next { s with results := s.results ++ [.okImage img] }) :
    burnGenerated gen s = burn img { s with results := s.results ++ [.okImage img] } := by
  simp [burnGenerated, h]

/-- Settles O58: each generator answers its image, and BURN of 1024 bytes changes no cell beyond them. -/
theorem burnGeneratedImages : Obligations.BurnGeneratedImages := by
  intro s hp
  obtain ⟨hgen, hlength, -⟩ := genMicrocodeReturnsImage s hp
  have hmicro := burnGenerated_of_image hgen
  refine ⟨hmicro, burnGenerated_of_image (exec_genDisplay_of_idle hp), fun hb hm n => ?_⟩
  have hlen : (configuredMicroImage Config.hardware).length ≤ Config.hardware.romSize := by
    rw [hlength]
    decide
  rw [burnMicrocode, hmicro]
  obtain ⟨q, k, hrun, h⟩ := burn_resumeFor
    (s := { s with results := s.results ++ [.okImage (configuredMicroImage Config.hardware)] }) hp
    (configuredMicroImage Config.hardware) n
  obtain ⟨-, hcells⟩ := h.writesBelow hlen hb
  refine ⟨q, hrun, fun x hx => hcells.cell_eq hm.1 ?_⟩
  rw [hlength]
  omega

end Sys2Proof.Machine
end

section
/-! PROOFS of the address latch family: the pin-level refinement of SET_ADDRESS (O13, O14) and the latch words
at the edges of the address range (O15). -/

namespace Sys2Proof.Machine

/-! ## The line changes (R117) -/

section
variable {s : State} {w : LatchWord}

/-- The three line changes of one bit are one `shift_in`, when the shift clock starts low (R113, R117). -/
theorem foldl_applyPin_bit (b : Bool) (h : s.srclk = false) :
    [.ser b, .srclk true, .srclk false].foldl applyPin s = shiftIn b s := by
  simp [applyPin, shiftIn, h]

/-- Bit after bit, the line changes do what the shifts do (R117). -/
theorem foldl_applyPin_bits (bits : List Nat) (h : s.srclk = false) :
    (bits.flatMap fun k => [.ser (w.getLsbD k), .srclk true, .srclk false]).foldl applyPin s =
      bits.foldl (fun t k => shiftIn (w.getLsbD k) t) s := by
  induction bits generalizing s with
  | nil => rfl
  | cons k bits ih =>
    rw [List.flatMap_cons, List.foldl_append, foldl_applyPin_bit _ h, ih (shiftIn_srclk ..),
      List.foldl_cons]

/-- The shifting part of the pin level is the 16 shifts of the word. -/
theorem foldl_applyPin_shiftPins (h : s.srclk = false) :
    (shiftPins w).foldl applyPin s = shiftWord w s :=
  foldl_applyPin_bits bitsDown h

/-! ## The storage clock (R115) -/

/-- From either level of RCLK, the low level and then the high one copy SR into Q (R115, R117). -/
theorem foldl_applyPin_rise :
    [.rclk false, .rclk true].foldl applyPin s = { s with q := s.sr, rclk := true } := by
  simp [applyPin]

/-- The storage clock low, high, low is the latch pulse (R115, R117). -/
theorem foldl_applyPin_pulse :
    [.rclk false, .rclk true, .rclk false].foldl applyPin s = latchPulse s := by
  simp [applyPin, latchPulse]

/-- Only RCLK going high moves Q (R115). -/
theorem applyPin_q {a : PinAction} (ha : a ≠ .rclk true) : (applyPin s a).q = s.q := by
  cases a with
  | ser b => rfl
  | srclk b => simp only [applyPin]; split <;> rfl
  | rclk b =>
    cases b with
    | false => simp [applyPin]
    | true => exact absurd rfl ha

/-- Line changes that do not set RCLK high leave Q as it was. -/
theorem foldl_applyPin_q {pins : List PinAction} (hpins : .rclk true ∉ pins) :
    (pins.foldl applyPin s).q = s.q := by
  induction pins generalizing s with
  | nil => rfl
  | cons a pins ih =>
    rw [List.mem_cons, not_or] at hpins
    rw [List.foldl_cons, ih hpins.2, applyPin_q (Ne.symm hpins.1)]

/-! ## The sequence cut at RCLK's rising edge -/

/-- Shifting leaves the storage clock alone. -/
theorem rclk_not_mem_shiftPins (b : Bool) : .rclk b ∉ shiftPins w := by
  simp [shiftPins]

/-- Through change 49 RCLK has not been set high. -/
theorem rclk_true_not_mem_take_latchPins {n : Nat} (hn : n ≤ 49) :
    .rclk true ∉ (latchPins w).take n := by
  have hcut : (latchPins w).take 49 = shiftPins w ++ [.rclk false] := rfl
  intro hmem
  have hmem49 := List.take_subset_take_left (latchPins w) hn hmem
  rw [hcut, List.mem_append] at hmem49
  rcases hmem49 with hshift | hlow
  · exact rclk_not_mem_shiftPins true hshift
  · simp at hlow

/-- From change 50 on, the changes so far end in the rising edge or in the low level after it. -/
theorem take_latchPins_of_rise {n : Nat} (hn : 50 ≤ n) :
    (latchPins w).take n =
      shiftPins w ++ [.rclk false, .rclk true] ++ [PinAction.rclk false].take (n - 50) := by
  have hcut : latchPins w = (shiftPins w ++ [.rclk false, .rclk true]) ++ [.rclk false] := by
    simp [latchPins]
  have hlen : (shiftPins w ++ [PinAction.rclk false, PinAction.rclk true]).length = 50 := rfl
  rw [hcut, List.take_append, hlen, List.take_of_length_le (hlen.trans_le hn)]

end

/-- Settles O13: the shifting part is the 16 shifts, and the rest is the latch pulse. -/
theorem pinLevelLatches : Obligations.PinLevelLatches := by
  intro w s h
  rw [latchPins, List.foldl_append, foldl_applyPin_shiftPins h, foldl_applyPin_pulse, shiftWord_eq,
    latchPulse]

/-- Settles O14: only RCLK's rising edge moves Q, and it finds the word in SR. -/
theorem storageHeldWhileShifting : Obligations.StorageHeldWhileShifting := by
  refine fun w s n h => ⟨fun hn => foldl_applyPin_q (rclk_true_not_mem_take_latchPins hn), fun hn => ?_⟩
  have hafter : .rclk true ∉ [PinAction.rclk false].take (n - 50) := fun hmem => by
    simpa using List.mem_of_mem_take hmem
  rw [take_latchPins_of_rise hn, List.foldl_append, foldl_applyPin_q hafter, List.foldl_append,
    foldl_applyPin_shiftPins h, foldl_applyPin_rise, shiftWord_eq]

/-- Settles O15: the formula of R110 computes each row of R119's table. -/
theorem latchWordsAtTheEdges : Obligations.LatchWordsAtTheEdges := by
  unfold Obligations.LatchWordsAtTheEdges
  decide

end Sys2Proof.Machine
end

section
/-! PROOFS of the byte transport family: WRITE on a sound chip that was not busy (O23), WRITE on every chip
(O26), and the write-enable pulse (O29). -/

namespace Sys2Proof.Machine

/-! ## The write-enable pulse (R130) -/

section
variable (p : Params) (s : State)

theorem weLow_holds :
    (weLow p s).weN = false ∧ (weLow p s).q = s.q ∧ (weLow p s).dout = s.dout := by
  simp [weLow]

theorem waitWp_holds :
    (waitWp p s).weN = s.weN ∧ (waitWp p s).q = s.q ∧ (waitWp p s).dout = s.dout := by
  simp [waitWp]

theorem wrPulse_holds :
    (wrPulse p s).weN = true ∧ (wrPulse p s).q = s.q ∧ (wrPulse p s).dout = s.dout ∧
      (wrPulse p s).dir = s.dir ∧ (wrPulse p s).trace = s.trace ++ [.weLow, .waitWp, .weHigh] := by
  simp [wrPulse_eq, atWeHigh, State.withChip]

end

/-- Settles O29: each moment of the pulse holds the bus. -/
theorem pulseHoldsTheBus : Obligations.PulseHoldsTheBus := by
  intro p s hp
  obtain ⟨hlow, hqLow, hdoutLow⟩ := weLow_holds p s
  obtain ⟨hwait, hqWait, hdoutWait⟩ := waitWp_holds p (weLow p s)
  obtain ⟨hhigh, hqHigh, hdoutHigh, hdir, htrace⟩ := wrPulse_holds p s
  rw [phaseStep_of_wrPulse p hp]
  exact ⟨hlow, hwait.trans hlow, hhigh, hqLow, hqWait.trans hqLow, hqHigh, hdoutLow,
    hdoutWait.trans hdoutLow, hdoutHigh, hdir, htrace⟩

/-! ## WRITE on a sound chip that was not busy -/

/-- Settles O23: the closed form of WRITE, at the hardware's configuration. -/
theorem writeOnIdleChip : Obligations.WriteOnIdleChip := by
  intro a v s hp ha hb hf hm
  rw [exec_write_of_idle hp, writeCommand_of_not_busy ha hb hf hm.1]

/-! ## WRITE on every chip: the bus it leaves (R132) -/

/-- The state t has the lines, latches, operands and pending write of b, and what the host has yet to give: all
that the poll loop leaves alone. -/
def KeepsBus (b t : State) : Prop :=
  t = { b with
    phase := t.phase
    polls := t.polls
    errlog := t.errlog
    mem := t.mem
    busy := t.busy
    cycleLeft := t.cycleLeft
    overlapped := t.overlapped
    draws := t.draws
    trace := t.trace
    results := t.results }

section
variable {p : Params} {a : Address} {v : Byte} {b s t u : State}

theorem KeepsBus.trans (h : KeepsBus b s) (h' : KeepsBus s t) : KeepsBus b t := by
  unfold KeepsBus at *
  rw [h', h]

theorem wcSample_keepsBus (p : Params) (s : State) : KeepsBus s (wcSample p s) := by
  obtain ⟨n, hn⟩ := sample_state p s 7
  rcases wcSample_cases p s with ⟨-, e⟩ | ⟨-, -, e⟩ | ⟨-, -, e⟩ <;> rw [e, hn]
  · simp [KeepsBus, answer]
  · simp [KeepsBus, raise]
  · simp [KeepsBus]

theorem wcWait_keepsBus (p : Params) (s : State) : KeepsBus s (wcWait p s) := by
  simp [KeepsBus, wcWait, waitPoll, emit]

/-- From the first sample on, a WRITE is in its poll loop or has ended. -/
theorem WriteStage.phase (h : WriteStage p a v u t) :
    t.phase = .wcSample ∨ t.phase = .wcWait ∨ t.phase = .idle := by
  cases h with
  | polling hloop => exact hloop.imp_right .inl
  | ok hidle | timeout _ _ hidle => exact .inr (.inr hidle)

theorem WriteStage.keepsBus (h : WriteStage p a v u t) : KeepsBus t (phaseStep p t) := by
  rcases h.phase with hp | hp | hp
  · exact phaseStep_of_wcSample hp ▸ wcSample_keepsBus p t
  · exact phaseStep_of_wcWait hp ▸ wcWait_keepsBus p t
  · exact (phaseStep_idle hp).symm ▸ rfl

/-- The poll loop begins with no sample taken. -/
theorem writePhases_stage (p : Params) (a : Address) (v : Byte) (u : State) :
    WriteStage p a v u (runPhases p 6 (startWrite a v u)) := by
  obtain ⟨hp, hpolls, hopAddr, hopVal, hlog, hres⟩ := writePhases_fields p a v u
  exact .polling (.inl hp) hopAddr hopVal (hpolls ▸ pollBoundReached_zero p) hlog hres

/-- The six phases before the poll loop leave R132's bus. -/
theorem writePhases_keepsBus (ha : inRange p a) (v : Byte) (u : State) :
    KeepsBus (afterWriteBus a v u) (runPhases p 6 (startWrite a v u)) := by
  rw [writePhases]
  simp [KeepsBus, wcLatch, wcDir, wrPulse, wrDrive, wrDir, wrLatch, setAddress_eq, dirIn, dirOut, drive,
    driveLines_eq, weHigh, waitWp, weLow, emit, afterWriteBus, latched, chipAddress_latchWord ha]

/-- What every phase of the poll loop keeps, of a WRITE at any stage, holds from its first sample on. -/
theorem Written.stage_induction {P : State → Prop} (h : Written p a v u t) (ha : inRange p a)
    (hP : ∀ s, WriteStage p a v u s → P s → P (phaseStep p s))
    (hstart : P (runPhases p 6 (startWrite a v u))) : P t :=
  (h.induction (P := fun s => WriteStage p a v u s ∧ P s) ha
    (fun s ⟨hstage, hs⟩ => ⟨writeStage_phaseStep hstage, hP s hstage hs⟩)
    ⟨writePhases_stage p a v u, hstart⟩).2

/-- WRITE leaves R132's bus, whatever the end of its poll loop. -/
theorem Written.keepsBus (h : Written p a v u t) (ha : inRange p a) :
    KeepsBus (afterWriteBus a v u) t :=
  h.stage_induction ha (fun _ hstage hs => hs.trans hstage.keepsBus) (writePhases_keepsBus ha v u)

/-! ### The three ends of its poll loop (R144, R145, R204) -/

/-- A timeout the host has received since u has POLLS as its count. -/
def TimeoutCountsPolls (a : Address) (v : Byte) (u t : State) : Prop :=
  ∀ m, t.results = u.results ++ [.err .writeTimeout (.timeout a v m)] → t.polls = m

/-- The sample that times out has its own number in its answer; no other phase answers with a timeout. -/
theorem WriteStage.timeoutCountsPolls (h : WriteStage p a v u s) (hs : TimeoutCountsPolls a v u s) :
    TimeoutCountsPolls a v u (phaseStep p s) := by
  cases h with
  | ok hidle | timeout _ _ hidle => rwa [phaseStep_idle hidle]
  | polling hloop _ _ _ _ hres =>
    intro m
    rcases hloop with hp | hp
    · rw [phaseStep_of_wcSample hp]
      rcases wcSample_cases p s with ⟨-, e⟩ | ⟨-, -, e⟩ | ⟨-, -, e⟩ <;> rw [e]
      · simp [hres]
      · simp [hres]
      · simp [hres]
    · rw [phaseStep_of_wcWait hp]
      simp [wcWait, waitPoll, hres]

theorem Written.timeoutCountsPolls (h : Written p a v u t) (ha : inRange p a) :
    TimeoutCountsPolls a v u t := by
  obtain ⟨-, -, -, -, -, hres⟩ := writePhases_fields p a v u
  exact h.stage_induction ha (fun _ hstage => hstage.timeoutCountsPolls) fun m hm => by
    simp [hres] at hm

/-- The command runs whole samples, each with its wait. -/
theorem writeCommand_endedOrPolled (ha : inRange p a) (v : Byte) (u : State) :
    ∃ k, EndedOrPolled k (writeCommand p a v u) := by
  obtain ⟨hp, hpolls, -⟩ := writePhases_fields p a v u
  rw [writeCommand_of_inRange ha]
  exact ⟨_, runPhases_endedOrPolled (.inr ⟨hp, hpolls⟩) _⟩

theorem writeCommand_ends (ha : inRange p a) (v : Byte) (u : State) :
    let t := writeCommand p a v u
    t.phase = .idle ∧ t.errlog = u.errlog ∧ t.results = u.results ++ [.okUnit] ∨
      (∃ m, p.pollMax = some m ∧ t.phase = .idle ∧ t.polls = m ∧
        t.errlog = u.errlog ++
          [{ code := .writeTimeout, command := commandWord 2#4 a v, info := .timeout a v m }] ∧
        t.results = u.results ++ [.err .writeTimeout (.timeout a v m)]) ∨
      p.pollMax = none ∧ t.phase = .wcSample ∧ t.errlog = u.errlog ∧ t.results = u.results := by
  have hw := Written.command p a v u
  cases hw.stage ha with
  | ok hidle hlog hres => exact .inl ⟨hidle, hlog, hres⟩
  | timeout m hmax hidle hlog hres =>
    exact .inr (.inl ⟨m, hmax, hidle, hw.timeoutCountsPolls ha m hres, hlog, hres⟩)
  | polling hloop _ _ _ hlog hres =>
    have hbusy : (writeCommand p a v u).phase ≠ .idle := by
      rcases hloop with hp | hp <;> simp [hp]
    obtain ⟨k, hidle | ⟨hsample, -⟩⟩ := writeCommand_endedOrPolled ha v u
    · exact absurd hidle hbusy
    · exact .inr (.inr ⟨hw.unbounded ha hbusy, hsample, hlog, hres⟩)

end

/-- Settles O26: the bus and the cells of a WRITE, and the three ends of its poll loop. -/
theorem writeCompletes : Obligations.WriteCompletes := by
  intro a v s hp ha hm
  have hw := Written.command Config.hardware a v s
  have hbus := hw.keepsBus ha
  have hends := writeCommand_ends ha v s
  have hcells : ∀ x : CellAddress, x ≠ a.setWidth 15 → x ≠ s.pendAddr →
      (writeCommand Config.hardware a v s).cell Config.hardware x = s.cell Config.hardware x := by
    refine fun x hnew hold => (hw.cells ha).cell_eq hm.1 ?_
    rintro (⟨-, hx⟩ | hx)
    · exact hold hx
    · exact hnew hx
  have hword := latchWord_true a
  refine ⟨_, exec_write_of_idle hp a v, ?_⟩
  rw [show _ = _ from hbus]
  exact ⟨hword, hword, rfl, rfl, rfl, congrArg (BitVec.getLsbD · 0) hword, rfl, rfl, rfl, rfl, rfl, rfl, rfl,
    rfl, rfl, hends, hcells⟩

end Sys2Proof.Machine
end

section
/-! PROOFS of the write commit family: the poll loop that matches (O24), the one that never ends (O28), and the
least time and the samples of a WRITE (O30). -/

namespace Sys2Proof.Machine

/-! ## The poll loop that matches (R146) -/

/-- On a sound chip that finishes within the bound WRITE returns Ok. -/
theorem afterWrite_of_matches {p : Params} {a : Address} {v : Byte} {s : State} {d : Nat}
    (hd : p.cycleEvents s.draws = some d) (hm : ∀ m, p.pollMax = some m → busySamples d < m) :
    afterWrite p a v s = afterWriteOk p a v (busySamples d) s := by
  rw [afterWrite, hd]
  cases hmax : p.pollMax with
  | none => rfl
  | some m => exact if_pos (hm m hmax)

/-- Settles O24: WRITE's closed form where the chip finishes below the bound. -/
theorem pollsUntilMatch : Obligations.PollsUntilMatch := by
  intro p a v s d hp ha hb hf hm hd hbelow
  rw [writeCommand_of_not_busy ha hb hf hm.1, afterWrite_of_matches hd hbelow]
  exact ⟨rfl, rfl, rfl, rfl, rfl, (List.append_assoc ..).symm⟩

/-! ## The poll loop that never ends (R144) -/

section
variable {p : Params} {w : State} {n j : Nat}

theorem polled_zero (p : Params) (w : State) : polled p w 0 0 = w := by
  simp [polled, polledBus, State.withChip, busyPolls]

/-- A sample that the cycle outlasts, below the bound, goes on to its wait. -/
theorem wcSample_polled_of_outlasts (h : Polling p w) (hn : Outlasts (n + 1) w)
    (hm : pollBoundReached p (w.polls + (j + 1)) = false) :
    wcSample p (polled p w n j) =
      State.withChip
        { emit (.sample 7 (!w.opVal.getLsbD 7)) (polledBus w j) with
          polls := w.polls + (j + 1), phase := .wcWait }
        ((chipTick p)^[n + 1] w) := by
  rw [wcSample, sample_polled_of_outlasts h hn]
  simp [polledBus, State.withChip, add_assoc, hm]

/-- The unbounded loop on a chip that never finishes, after any number of phases: k samples with their waits,
and then perhaps one sample more. -/
theorem runPhases_of_never (h : Polling p w) (hm : p.pollMax = none) (hc : w.cycleLeft = none) (k : Nat) :
    runPhases p (2 * k) w = polled p w (2 * k) k ∧
      runPhases p (2 * k + 1) w =
        State.withChip
          { emit (.sample 7 (!w.opVal.getLsbD 7)) (polledBus w k) with
            polls := w.polls + (k + 1), phase := .wcWait }
          ((chipTick p)^[2 * k + 1] w) := by
  have hbound := pollBoundReached_of_none hm
  have heven : runPhases p (2 * k) w = polled p w (2 * k) k := by
    have hrun := runPhases_polled (n := 0) (k := k) h (fun _ _ => .of_never hc _) (hbound _)
    rwa [polled_zero, Nat.zero_add] at hrun
  refine ⟨heven, ?_⟩
  rw [runPhases_add, heven, runPhases, runPhases, phaseStep_polled h]
  exact wcSample_polled_of_outlasts h (.of_never hc _) (hbound _)

end

/-- Settles O28: the states of the loop in closed form, after an even and after an odd number of phases. -/
theorem unboundedLoopHangs : Obligations.UnboundedLoopHangs := by
  intro p s hm hp hb hc ho hf hd hq ha hv n
  have hpoll : Polling p s := ⟨⟨hb, ho, hf, hd, hq⟩, hp, ha, hv⟩
  have hrun := runPhases_of_never hpoll hm hc
  have hkeeps : (runPhases p n s).results = s.results ∧ (runPhases p n s).pending = s.pending ∧
      (runPhases p n s).latchPort = s.latchPort := by
    obtain ⟨k, rfl | rfl⟩ := n.even_or_odd'
    · rw [(hrun k).1]
      exact ⟨rfl, rfl, rfl⟩
    · rw [(hrun k).2]
      exact ⟨rfl, rfl, rfl⟩
  obtain ⟨heven, hodd⟩ := hrun n
  rw [heven, hodd]
  exact ⟨hp, rfl, rfl, hkeeps⟩

/-! ## The least time of a WRITE (R234 to R236) -/

section
variable {p : Params} {a : Address} {v : Byte} {s t u : State}

theorem traceAtLeast_append (p : Params) (es fs : List Event) :
    traceAtLeast p (es ++ fs) = traceAtLeast p es + traceAtLeast p fs := by
  simp [traceAtLeast]

/-- Before the poll loop a WRITE takes the pulse's width (R234). -/
theorem traceAtLeast_writeEvents (p : Params) (a : Address) (v : Byte) :
    traceAtLeast p (writeEvents a v) = p.tWp := by
  simp [traceAtLeast, writeEvents, Event.atLeast]

theorem writePhases_trace (p : Params) (a : Address) (v : Byte) (u : State) :
    (runPhases p 6 (startWrite a v u)).trace = u.trace ++ writeEvents a v := by
  simp [writePhases, wcLatch, wcDir, wrPulse, wrDrive, wrDir, wrLatch, setAddress_eq, dirIn, dirOut, drive,
    weHigh, waitWp, weLow, writeEvents]

theorem wcSample_polls (p : Params) (s : State) : (wcSample p s).polls = s.polls + 1 := by
  rcases wcSample_cases p s with ⟨-, e⟩ | ⟨-, -, e⟩ | ⟨-, -, e⟩ <;> simp [e]

/-- The events since u take T_WP and some waits, one for each sample but the one that no wait has followed
yet. -/
def SamplesAndWaits (p : Params) (u t : State) : Prop :=
  ∃ es waits, t.trace = u.trace ++ es ∧ traceAtLeast p es = p.tWp + waits * p.tPoll ∧
    t.polls = if t.phase = .wcSample then waits else waits + 1

/-- A sample is one without its wait yet and counts as no time; its wait counts as T_POLL. -/
theorem WriteStage.samplesAndWaits (h : WriteStage p a v u s) (hs : SamplesAndWaits p u s) :
    SamplesAndWaits p u (phaseStep p s) := by
  obtain ⟨es, waits, htrace, htime, hpolls⟩ := hs
  rcases h.phase with hp | hp | hp
  · refine ⟨es ++ [.sample 7 (sample p 7 s).1], waits, ?_, ?_, ?_⟩
    · rw [phaseStep_of_wcSample hp, wcSample_trace, htrace, List.append_assoc]
    · rw [traceAtLeast_append, htime]
      rfl
    · rw [phaseStep_of_wcSample hp, wcSample_polls, hpolls, if_pos hp]
      rcases wcSample_phase p s with hnext | hnext <;> simp [hnext]
  · refine ⟨es ++ [.waitPoll], waits + 1, ?_, ?_, ?_⟩
    · simp [phaseStep_of_wcWait hp, wcWait, waitPoll, htrace]
    · rw [traceAtLeast_append, htime, Nat.succ_mul, Nat.add_assoc]
      rfl
    · simp [phaseStep_of_wcWait hp, wcWait, waitPoll, hpolls, hp]
  · rw [phaseStep_idle hp]
    exact ⟨es, waits, htrace, htime, hpolls⟩

theorem Written.samplesAndWaits (h : Written p a v u t) (ha : inRange p a) : SamplesAndWaits p u t := by
  obtain ⟨hp, hpolls, -⟩ := writePhases_fields p a v u
  refine h.stage_induction ha (fun _ hstage => hstage.samplesAndWaits)
    ⟨writeEvents a v, 0, writePhases_trace p a v u, ?_, ?_⟩
  · simp [traceAtLeast_writeEvents]
  · rw [hpolls, if_pos hp]

/-! ### The number of samples (R143) -/

/-- The samples before the last one are below the bound. -/
theorem WriteStage.polls_below (h : WriteStage p a v u s) (hs : pollBoundReached p (s.polls - 1) = false) :
    pollBoundReached p ((phaseStep p s).polls - 1) = false := by
  cases h with
  | ok hidle | timeout _ _ hidle => rwa [phaseStep_idle hidle]
  | polling hloop _ _ hbelow =>
    rcases hloop with hp | hp
    · rwa [phaseStep_of_wcSample hp, wcSample_polls, Nat.add_sub_cancel]
    · simpa [phaseStep_of_wcWait hp, wcWait, waitPoll] using hs

theorem Written.polls_le (h : Written p a v u t) (ha : inRange p a) {m : Nat} (hm : p.pollMax = some m) :
    t.polls ≤ m := by
  obtain ⟨-, hpolls, -⟩ := writePhases_fields p a v u
  have hbelow : pollBoundReached p (t.polls - 1) = false :=
    h.stage_induction ha (P := fun s => pollBoundReached p (s.polls - 1) = false)
      (fun _ hstage => hstage.polls_below) (by rw [hpolls]; exact pollBoundReached_zero p)
  rw [pollBoundReached_of_some hm, decide_eq_false_iff_not] at hbelow
  omega

/-- A command runs its poll loop for at least one sample. -/
theorem pollBudget_pos (p : Params) (s : State) : 0 < pollBudget p s := by
  cases h : p.pollMax with
  | none => simp [pollBudget_of_none h]
  | some m => exact pollBudget_of_some h s ▸ pollMax_pos h

/-- After the command the loop has ended, or has taken at least one sample and waited after it. -/
theorem writeCommand_idle_or_polled (ha : inRange p a) (v : Byte) (u : State) :
    (writeCommand p a v u).phase = .idle ∨
      (writeCommand p a v u).phase = .wcSample ∧ 1 ≤ (writeCommand p a v u).polls := by
  obtain ⟨hp, hpolls, -⟩ := writePhases_fields p a v u
  rw [writeCommand_of_inRange ha]
  refine (runPhases_endedOrPolled (.inr ⟨hp, hpolls⟩) _).imp_right fun ⟨hsample, hbudget⟩ =>
    ⟨hsample, ?_⟩
  rw [hbudget]
  exact pollBudget_pos p _

end

/-- Settles O30: a WRITE that has ended has not waited after its last sample; one in flight has. -/
theorem waitsTakeTheirMinimum : Obligations.WaitsTakeTheirMinimum := by
  intro p a v s _ ha t
  have hw : Written p a v s t := .command p a v s
  obtain ⟨es, waits, htrace, htime, hpolls⟩ := hw.samplesAndWaits ha
  have hmax (m : Nat) (hm : p.pollMax = some m) : t.polls ≤ m := hw.polls_le ha hm
  have hend : t.phase = .idle ∨ t.phase = .wcSample ∧ 1 ≤ t.polls := writeCommand_idle_or_polled ha v s
  rcases hend with hidle | ⟨hsample, hpos⟩
  · have hcount : t.polls = waits + 1 := by simpa [hidle] using hpolls
    refine ⟨by omega, hmax, es, htrace, fun _ => ?_, fun hne => absurd hidle hne⟩
    rw [htime, hcount, Nat.add_sub_cancel]
  · have hcount : t.polls = waits := hpolls.trans (if_pos hsample)
    refine ⟨hpos, hmax, es, htrace, fun hidle => absurd (hidle.symm.trans hsample) (by decide), fun _ => ?_⟩
    rw [htime, hcount]

end Sys2Proof.Machine
end

section
/-! PROOFS of the display generator family: the bytes of the two regions (O32, O33), the entries of the digit
table that they look up (O34), and the image that GEN_DISPLAY returns (O31). -/

namespace Sys2Proof.Machine

/-- A number is the value of its three decimal digits; the hundreds are taken whole (R158, R159). -/
theorem eq_decimal_digits (n : Nat) : n = 100 * (n / 100) + 10 * (n / 10 % 10) + n % 10 := by
  omega

/-! ## The bytes of the unsigned region -/

/-- At an address made of its fields with REGION = 0 the byte is that of the unsigned region (F-DISP, R158). -/
theorem displayByte_unsigned (p : Params) (pos : BitVec 2) (u : Byte) :
    displayByte p (0#1 ++ pos ++ u) = unsignedDigit p pos u.toNat := by
  obtain ⟨hregion, hpos, hbyte⟩ := disp_fields 0#1 pos u
  simp [displayByte, hregion, hpos, hbyte]

@[simp] theorem unsignedDigit_units (p : Params) (u : Nat) :
    unsignedDigit p 0#2 u = digitDecode p (u % 10) := rfl

@[simp] theorem unsignedDigit_tens (p : Params) (u : Nat) :
    unsignedDigit p 1#2 u = digitDecode p (u / 10 % 10) := rfl

@[simp] theorem unsignedDigit_hundreds (p : Params) (u : Nat) :
    unsignedDigit p 2#2 u = digitDecode p (u / 100) := rfl

@[simp] theorem unsignedDigit_thousands (p : Params) (u : Nat) : unsignedDigit p 3#2 u = 0x00#8 := rfl

/-- Settles O32: the fields of the address choose the digit. -/
theorem displayUnsignedRegion : Obligations.DisplayUnsignedRegion := by
  intro p u
  simp only [displayByte_unsigned, unsignedDigit_units, unsignedDigit_tens, unsignedDigit_hundreds,
    unsignedDigit_thousands, true_and]
  exact eq_decimal_digits u.toNat

/-! ## The bytes of the signed region -/

/-- At an address made of its fields with REGION = 1 the byte is that of the signed region (F-DISP, R159). -/
theorem displayByte_signed (p : Params) (pos : BitVec 2) (b : Byte) :
    displayByte p (1#1 ++ pos ++ b) = signedDigit p pos b.toInt := by
  obtain ⟨hregion, hpos, hbyte⟩ := disp_fields 1#1 pos b
  simp [displayByte, hregion, hpos, hbyte]

/-- The byte at the sign position is no digit (R162). -/
theorem signedDigit_sign (p : Params) (x : Int) :
    signedDigit p 3#2 x = if x < 0 then 0x01#8 else 0x00#8 := rfl

/-- Below the sign position the signed region shows the absolute value as the unsigned region does. -/
theorem signedDigit_of_ne_sign {pos : BitVec 2} (hpos : pos ≠ 3#2) (p : Params) (x : Int) :
    signedDigit p pos x = unsignedDigit p pos x.natAbs := by
  have : pos = 0#2 ∨ pos = 1#2 ∨ pos = 2#2 := by bv_omega
  rcases this with rfl | rfl | rfl <;> rfl

/-- The absolute value of a byte read as two's complement is at most 128 (R159). -/
theorem natAbs_toInt_le (b : Byte) : b.toInt.natAbs ≤ 128 := by
  have hlow := BitVec.le_toInt b
  have hhigh := BitVec.toInt_lt (x := b)
  omega

/-- Settles O33: three positions show |s| as the unsigned region does, and the fourth its sign. -/
theorem displaySignedRegion : Obligations.DisplaySignedRegion := by
  intro p b m
  simp only [displayByte_signed]
  exact ⟨signedDigit_of_ne_sign (by decide) p _, signedDigit_of_ne_sign (by decide) p _,
    signedDigit_of_ne_sign (by decide) p _, signedDigit_sign p _, natAbs_toInt_le b,
    eq_decimal_digits m⟩

/-! ## The entries of the digit table -/

section

variable {p p' : Params} (h : ∀ n, n < 10 → digitDecode p n = digitDecode p' n)
include h

/-- A number of at most three digits is shown with the entries 0 to 9 alone. -/
theorem unsignedDigit_congr (pos : BitVec 2) {u : Nat} (hu : u < 1000) :
    unsignedDigit p pos u = unsignedDigit p' pos u := by
  have hunits := h (u % 10) (by omega)
  have htens := h (u / 10 % 10) (by omega)
  have hhundreds := h (u / 100) (by omega)
  simp only [unsignedDigit, hunits, htens, hhundreds]

/-- So is a number of the signed region: its digits are those of its absolute value. -/
theorem signedDigit_congr (pos : BitVec 2) {x : Int} (hx : x.natAbs < 1000) :
    signedDigit p pos x = signedDigit p' pos x := by
  by_cases hpos : pos = 3#2
  · rw [hpos, signedDigit_sign, signedDigit_sign]
  · rw [signedDigit_of_ne_sign hpos, signedDigit_of_ne_sign hpos, unsignedDigit_congr h pos hx]

/-- No byte of the image looks up the entries 10 to 15 (R157). -/
theorem displayByte_congr (a : BitVec 11) :
    displayByte p a = displayByte p' a := by
  have hsigned := natAbs_toInt_le (dispByte a)
  have hunsigned := (dispByte a).isLt
  rw [displayByte, displayByte, signedDigit_congr h _ (by omega), unsignedDigit_congr h _ (by omega)]

end

/-- Settles O34, byte by byte. -/
theorem displayUsesTenDigits : Obligations.DisplayUsesTenDigits :=
  fun _ _ h => List.map_congr_left fun _ _ => displayByte_congr h _

/-! ## GEN_DISPLAY -/

theorem displayImage_length (p : Params) : (displayImage p).length = 2048 := by
  simp [displayImage]

/-- The image holds DISP(a) at each address a (R160). -/
theorem displayImage_get (p : Params) (a : BitVec 11) :
    (displayImage p)[a.toNat]? = some (displayByte p a) :=
  image_get (displayByte p) rfl a

/-- Settles O31: the answer is the image, whose byte at each address is DISP's. -/
theorem genDisplayReturnsImage : Obligations.GenDisplayReturnsImage :=
  fun _ hp => ⟨exec_genDisplay_of_idle hp, displayImage_length _, displayImage_get _⟩

end Sys2Proof.Machine
end

section
/-! PROOFS of the microcode generator family: the values of the named control words (O43), which base tables
give an image (O37, O38), where the flag variants differ (O41), the two bytes of a control word (O40), and the
image bytes that every admitted table has (O39). -/

namespace Sys2Proof.Machine

/-! ## The named control words (R176) -/

/-- Settles O43: the unions compute at the hardware's positions of the lines. -/
theorem controlWordValues : Obligations.ControlWordValues := ⟨rfl, rfl, rfl⟩

/-- A union of at least one line is not the zero word, at any positions of the lines. -/
theorem controlWord_ne_zero (p : Params) {ls : List ControlLine} {l : ControlLine} (h : l ∈ ls) :
    controlWord p ls ≠ 0#16 := by
  intro hzero
  have hline := (controlLinesUnion p ls l).mpr h
  rw [hzero, hasLine_eq_getLsbD] at hline
  simp at hline

theorem fetch0_ne_zero (p : Params) : fetch0 p ≠ 0#16 := controlWord_ne_zero p (.head _)

theorem jumpWord_ne_zero (p : Params) : jumpWord p ≠ 0#16 := controlWord_ne_zero p (.head _)

/-! ## The active steps of a row (R180 (b)) -/

section
variable {t : BaseTable} {o : Opcode} {k : Nat} (h : BaseTable.activeUpTo t o k)
include h

/-- After its last active step a row is zero. -/
theorem activeUpTo_eq_zero {s : MicroStep} (hs : 1 + k < s.toNat) : t o s = 0#16 := by
  have htwo : 2 ≤ s.toNat := by omega
  exact not_not.mp fun hne => absurd ((h s htwo).mp hne) (by omega)

/-- Active steps have no gap: after a zero step no step is active. -/
theorem activeUpTo_no_gap {s u : MicroStep} (hs : 2#3 ≤ s) (hsu : s ≤ u) (hzero : t o s = 0#16) :
    t o u = 0#16 := by
  have hinactive : ¬ s.toNat ≤ 1 + k := fun hle => (h s hs).mpr hle hzero
  have hle : s.toNat ≤ u.toNat := hsu
  exact activeUpTo_eq_zero h (by omega)

end

/-- R188: step 7 is never active, since a row has at most 5 active steps. -/
theorem admitted_step_seven {p : Params} {t : BaseTable} {nop : Opcode} {reserved : List Opcode}
    (h : BaseTable.Admitted p t nop reserved) (o : Opcode) : t o 7#3 = 0#16 := by
  obtain ⟨-, hactive, -⟩ := h
  obtain ⟨k, hk, hrow⟩ := hactive o
  exact activeUpTo_eq_zero hrow (Nat.add_lt_add_left (List.mem_range.mp hk) 1)

/-! ## The microprogram of a table (R180, R208) -/

/-- The words of an opcode's steps 2 to 6. -/
def stepWords (t : BaseTable) (o : Opcode) : List ControlWord :=
  (List.range 5).map fun n => t o (BitVec.ofNat 3 (n + 2))

/-- The microprogram that holds the open part of a table. -/
def tableMicroprogram (t : BaseTable) (nop : Opcode) (reserved : List Opcode) : Microprogram where
  activeSteps := stepWords t
  nopOpcode := nop
  reservedOpcodes := reserved

@[simp] theorem stepWords_length (t : BaseTable) (o : Opcode) : (stepWords t o).length = 5 := rfl

@[simp] theorem stepWords_getElem (t : BaseTable) (o : Opcode) {n : Nat}
    (hn : n < (stepWords t o).length) : (stepWords t o)[n] = t o (BitVec.ofNat 3 (n + 2)) := by
  simp [stepWords]

/-- Taking while a predicate holds takes a count of elements, where it holds on exactly the first so many. -/
theorem takeWhile_eq_take {α : Type} {f : α → Bool} {l : List α} {k : Nat}
    (h : ∀ n, (hn : n < l.length) → (f l[n] = true ↔ n < k)) : l.takeWhile f = l.take k := by
  induction l generalizing k with
  | nil => simp
  | cons x l ih =>
    have hhead : f x = true ↔ 0 < k := h 0 (Nat.zero_lt_succ _)
    cases k with
    | zero => simp [hhead]
    | succ k =>
      have htail : l.takeWhile f = l.take k := ih fun n hn => by
        simpa using h (n + 1) (Nat.succ_lt_succ hn)
      simp [hhead, htail]

/-- The words up to the first zero are as many as the row has active steps. -/
theorem stepWords_takeWhile {t : BaseTable} {o : Opcode} {k : Nat} (h : BaseTable.activeUpTo t o k) :
    (stepWords t o).takeWhile (fun w => decide (w ≠ 0#16)) = (stepWords t o).take k := by
  apply takeWhile_eq_take
  intro n hn
  rw [stepWords_length] at hn
  have hstep : (BitVec.ofNat 3 (n + 2)).toNat = n + 2 := Nat.mod_eq_of_lt (by omega)
  have htwo : 2 ≤ (BitVec.ofNat 3 (n + 2)).toNat := by omega
  have hactive := h (BitVec.ofNat 3 (n + 2)) htwo
  rw [stepWords_getElem, decide_eq_true_iff, hactive, hstep]
  omega

section
variable {p : Params} {t : BaseTable} {nop : Opcode} {reserved : List Opcode}

theorem microprogramOf?_of_admitted (h : BaseTable.Admitted p t nop reserved) :
    microprogramOf? p t nop reserved = some (tableMicroprogram t nop reserved) := if_pos h

/-- R208: a table that R180 does not admit gives no image. -/
theorem microImage?_of_not_admitted (h : ¬ BaseTable.Admitted p t nop reserved) :
    microImage? p t nop reserved = none := by
  rw [microImage?, microprogramOf?, if_neg h, Option.map_none]

/-- From step 2 on, an opcode whose steps the microprogram keeps has the table's own words. -/
theorem rowSteps_tableMicroprogram {o : Opcode} {k : Nat} (hk : k < 6) (h : BaseTable.activeUpTo t o k)
    (ho : ¬ (o = opcodeJC ∨ o = opcodeJZ ∨ o = nop ∨ o ∈ reserved)) {s : MicroStep} (hs : 2#3 ≤ s) :
    (rowSteps (tableMicroprogram t nop reserved) o).getD (s.toNat - 2) 0#16 = t o s := by
  have hkept : rowSteps (tableMicroprogram t nop reserved) o =
      ((stepWords t o).takeWhile fun w => decide (w ≠ 0#16)).take 5 := if_neg ho
  have hrow : rowSteps (tableMicroprogram t nop reserved) o = (stepWords t o).take k := by
    rw [hkept, stepWords_takeWhile h, List.take_take, Nat.min_eq_right (Nat.le_of_lt_succ hk)]
  have hs' : 2 ≤ s.toNat := hs
  rw [hrow]
  by_cases hin : s.toNat - 2 < k
  · rw [List.getD_eq_getElem _ _ (by simp; omega), List.getElem_take, stepWords_getElem,
      Nat.sub_add_cancel hs', BitVec.ofNat_toNat, BitVec.setWidth_eq]
  · rw [List.getD_eq_default _ _ (by simp; omega), activeUpTo_eq_zero h (by omega)]

/-- The microprogram of an admitted table has that table. -/
theorem baseTable_tableMicroprogram (h : BaseTable.Admitted p t nop reserved) :
    baseTable p (tableMicroprogram t nop reserved) = t := by
  obtain ⟨hfetch, hactive, hjc, hjz, hnop, hreserved, -⟩ := h
  funext o s
  by_cases h0 : s = 0#3
  · rw [h0, baseTable_step_zero, (hfetch o).1]
  by_cases h1 : s = 1#3
  · rw [h1, baseTable_step_one, (hfetch o).2]
  have hs : 2#3 ≤ s := by bv_omega
  by_cases ho : o = opcodeJC ∨ o = opcodeJZ ∨ o = nop ∨ o ∈ reserved
  · have hnone : BaseTable.noSteps t o := by
      rcases ho with rfl | rfl | rfl | hmem
      · exact hjc
      · exact hjz
      · exact hnop
      · exact hreserved o hmem
    rw [baseTable_noSteps p ho s hs, hnone s hs]
  · obtain ⟨k, hk, hrow⟩ := hactive o
    rw [baseTable_of_two_le _ _ _ hs, rowSteps_tableMicroprogram (List.mem_range.mp hk) hrow ho hs]

/-- R184: an admitted table gives its image. -/
theorem microImage?_of_admitted (h : BaseTable.Admitted p t nop reserved) :
    microImage? p t nop reserved = some (microImage p t) := by
  rw [microImage?, microprogramOf?_of_admitted h, Option.map_some, baseTable_tableMicroprogram h]

end

/-- Settles O37: the microprogram that holds the table's steps 2 to 6 has the table. -/
theorem admittedTablesRepresented : Obligations.AdmittedTablesRepresented :=
  fun _ t nop reserved =>
    ⟨fun h => ⟨tableMicroprogram t nop reserved, microprogramOf?_of_admitted h,
      baseTable_tableMicroprogram h, rfl, rfl, microImage?_of_admitted h⟩,
    microImage?_of_not_admitted⟩

/-- Settles O38: JC would have a step, a zero step would come before an active one, and FETCH0 would be
zero. -/
theorem brokenTablesRefused : Obligations.BrokenTablesRefused := by
  intro p t nop reserved
  refine ⟨fun hstep => ?_, fun hzero hstep => ?_, fun hzero => ?_⟩ <;>
    refine microImage?_of_not_admitted fun ⟨hfetch, hactive, hjc, _⟩ => ?_
  · have hnone : t 7#4 3#3 = 0#16 := hjc 3#3 (by decide)
    exact absurd (hstep.symm.trans hnone) (by decide)
  · obtain ⟨k, -, hrow⟩ := hactive 1#4
    have hgap : t 1#4 3#3 = 0#16 := activeUpTo_no_gap hrow (by decide) (by decide) hzero
    exact absurd (hstep.symm.trans hgap) (by decide)
  · exact fetch0_ne_zero p ((hfetch 4#4).1.symm.trans hzero)

/-! ## The flag variants (R181, R182) -/

@[simp] theorem carryOf_flagIndex (zero carry : Bool) : carryOf (flagIndex zero carry) = carry := by
  cases zero <;> cases carry <;> rfl

@[simp] theorem zeroOf_flagIndex (zero carry : Bool) : zeroOf (flagIndex zero carry) = zero := by
  cases zero <;> cases carry <;> rfl

/-- The override slots of a flagState: step 2 of JC where Carry is set, and of JZ where Zero is set
(R181). -/
abbrev Overridden (f : FlagState) (o : Opcode) (s : MicroStep) : Prop :=
  s = 2#3 ∧ (o = opcodeJC ∧ carryOf f = true ∨ o = opcodeJZ ∧ zeroOf f = true)

section
variable (p : Params) (t : BaseTable) {f : FlagState} {o : Opcode} {s : MicroStep}

theorem ucode_of_overridden (h : Overridden f o s) : ucode p t f o s = jumpWord p := by
  obtain ⟨rfl, ⟨rfl, hcarry⟩ | ⟨rfl, hzero⟩⟩ := h
  · exact if_pos ⟨rfl, rfl, hcarry⟩
  · exact (if_neg fun h => absurd h.1 (by decide)).trans (if_pos ⟨rfl, rfl, hzero⟩)

theorem ucode_of_not_overridden (h : ¬ Overridden f o s) : ucode p t f o s = t o s :=
  (if_neg fun ⟨ho, hs, hcarry⟩ => h ⟨hs, .inl ⟨ho, hcarry⟩⟩).trans
    (if_neg fun ⟨ho, hs, hzero⟩ => h ⟨hs, .inr ⟨ho, hzero⟩⟩)

/-- R185, R188: all other steps are the same in every variant. -/
theorem ucode_of_ne_two (hs : s ≠ 2#3) : ucode p t f o s = t o s :=
  ucode_of_not_overridden p t fun h => hs h.1

end

section
variable {p : Params} {t : BaseTable} {nop : Opcode} {reserved : List Opcode}
  (h : BaseTable.Admitted p t nop reserved)
include h

/-- An admitted table is zero at the override slots. -/
theorem admitted_overridden_eq_zero {f : FlagState} {o : Opcode} {s : MicroStep} (hov : Overridden f o s) :
    t o s = 0#16 := by
  obtain ⟨-, -, hjc, hjz, -⟩ := h
  obtain ⟨rfl, ⟨rfl, -⟩ | ⟨rfl, -⟩⟩ := hov
  · exact hjc 2#3 (by decide)
  · exact hjz 2#3 (by decide)

/-- A variant differs from an admitted table at the override slots alone, since JUMP is not zero. -/
theorem ucode_ne_iff_overridden {f : FlagState} {o : Opcode} {s : MicroStep} :
    ucode p t f o s ≠ t o s ↔ Overridden f o s := by
  constructor
  · exact fun hne => by_contra fun hov => hne (ucode_of_not_overridden p t hov)
  · intro hov
    rw [ucode_of_overridden p t hov, admitted_overridden_eq_zero h hov]
    exact jumpWord_ne_zero p

/-- Step 2 of JC is JUMP where Carry is set, and zero elsewhere (R187, R188). -/
theorem ucode_jc_two (f : FlagState) :
    ucode p t f opcodeJC 2#3 = if carryOf f then jumpWord p else 0#16 := by
  obtain ⟨-, -, hjc, -⟩ := h
  split
  case isTrue hcarry => exact ucode_of_overridden p t ⟨rfl, .inl ⟨rfl, hcarry⟩⟩
  case isFalse hcarry =>
    rw [ucode_of_not_overridden p t (by simp [hcarry, opcodeJC, opcodeJZ]), hjc 2#3 (by decide)]

/-- Step 2 of JZ is JUMP where Zero is set, and zero elsewhere (R187, R188). -/
theorem ucode_jz_two (f : FlagState) :
    ucode p t f opcodeJZ 2#3 = if zeroOf f then jumpWord p else 0#16 := by
  obtain ⟨-, -, -, hjz, -⟩ := h
  split
  case isTrue hzero => exact ucode_of_overridden p t ⟨rfl, .inr ⟨rfl, hzero⟩⟩
  case isFalse hzero =>
    rw [ucode_of_not_overridden p t (by simp [hzero, opcodeJC, opcodeJZ]), hjz 2#3 (by decide)]

end

/-- Settles O41: the override slots are R182's, and there JUMP stands in the place of zero. -/
theorem variantsDifferAtOverrides : Obligations.VariantsDifferAtOverrides := by
  intro p t nop reserved h zero carry o s
  have hdiffer := ucode_ne_iff_overridden h (f := flagIndex zero carry) (o := o) (s := s)
  refine ⟨?_, fun hne => ?_⟩
  · rw [hdiffer, Overridden, carryOf_flagIndex, zeroOf_flagIndex, opcodeJC, opcodeJZ]
  · have hov := hdiffer.mp hne
    exact ⟨ucode_of_overridden p t hov, admitted_overridden_eq_zero h hov⟩

/-! ## The two bytes of a control word (R183, R186) -/

/-- At an address made of its fields MICRO is a half of the word at the flagState, opcode and step (R183). -/
theorem microByte_ucodeAddress (p : Params) (t : BaseTable) (f : FlagState) (bs : Bool) (o : Opcode)
    (s : MicroStep) : microByte p t (ucodeAddress f bs o s) =
      if bs then (ucode p t f o s >>> 8).setWidth 8 else (ucode p t f o s).setWidth 8 := by
  obtain ⟨hflags, hbyte, hopcode, hstep⟩ := ucode_fields f bs o s
  rw [microByte, hflags, hbyte, hopcode, hstep]

/-- The low and the high byte of a known word. -/
theorem microBytes_of_ucode {p : Params} {t : BaseTable} {f : FlagState} {o : Opcode} {s : MicroStep}
    {w : ControlWord} (h : ucode p t f o s = w) :
    microByte p t (ucodeAddress f false o s) = w.setWidth 8 ∧
      microByte p t (ucodeAddress f true o s) = (w >>> 8).setWidth 8 := by
  simp [microByte_ucodeAddress, h]

/-- Outside step 2 the bytes are those of the table's word, in every variant (R182). -/
theorem microBytes_of_ne_two {p : Params} {t : BaseTable} {o : Opcode} {s : MicroStep} {w : ControlWord}
    (hs : s ≠ 2#3) (h : t o s = w) (f : FlagState) :
    microByte p t (ucodeAddress f false o s) = w.setWidth 8 ∧
      microByte p t (ucodeAddress f true o s) = (w >>> 8).setWidth 8 :=
  microBytes_of_ucode ((ucode_of_ne_two p t hs).trans h)

/-- A word is its high byte over its low byte. -/
theorem high_append_low (w : BitVec 16) : ((w >>> 8).setWidth 8 ++ w.setWidth 8 : BitVec 16) = w := by
  apply BitVec.eq_of_getLsbD_eq
  intro i hi
  rw [BitVec.getLsbD_append]
  split
  case isTrue hlow => simp [hlow]
  case isFalse hhigh =>
    have hsplit : 8 + (i - 8) = i := by omega
    simp [hsplit, show i - 8 < 8 by omega]

/-- The value of two fields set side by side. -/
theorem toNat_append_eq_add {n m : Nat} (x : BitVec n) (y : BitVec m) :
    (x ++ y).toNat = x.toNat * 2 ^ m + y.toNat := by
  rw [BitVec.toNat_append, ← Nat.shiftLeft_add_eq_or_of_lt y.isLt, Nat.shiftLeft_eq]

/-- The formula of F-UCODE (R87). -/
theorem ucodeAddress_toNat (f : FlagState) (bs : Bool) (o : Opcode) (s : MicroStep) :
    (ucodeAddress f bs o s).toNat = f.toNat * 256 + bs.toNat * 128 + o.toNat * 8 + s.toNat := by
  simp only [ucodeAddress, toNat_append_eq_add, BitVec.toNat_ofBool]
  omega

/-- Settles O40: the bytes are the two halves of the word, at the addresses of F-UCODE. -/
theorem controlWordRecombines : Obligations.ControlWordRecombines := by
  intro p t f o s
  refine ⟨?_, by simp [ucodeAddress_toNat], by simp [ucodeAddress_toNat]⟩
  exact (congrArg₂ _ (microByte_ucodeAddress p t f true o s) (microByte_ucodeAddress p t f false o s)).trans
    (high_append_low _)

/-! ## The bytes that every admitted table has (R188, R190) -/

/-- Settles O39: the words of steps 0, 1 and 7, and of JC and JZ from step 2 on, are the same for every
admitted table. -/
theorem fixedMicrocodeBytes : Obligations.FixedMicrocodeBytes := by
  intro t nop reserved h byte
  have hjc (f) := microBytes_of_ucode (ucode_jc_two h f)
  have hjz (f) := microBytes_of_ucode (ucode_jz_two h f)
  have hseven (o) := microBytes_of_ne_two (p := Config.hardware) (by decide) (admitted_step_seven h o)
  obtain ⟨hfetch, -, hjcNone, hjzNone, -⟩ := h
  obtain ⟨hfetch0, hfetch1, -⟩ := controlWordValues
  have hzero (o) := microBytes_of_ne_two (p := Config.hardware) (by decide) ((hfetch o).1.trans hfetch0)
  have hone (o) := microBytes_of_ne_two (p := Config.hardware) (by decide) ((hfetch o).2.trans hfetch1)
  have hlate (f : FlagState) (bs : Bool) {o : Opcode} (ho : BaseTable.noSteps t o) {s : MicroStep}
      (hs : 3#3 ≤ s) : byte (ucodeAddress f bs o s) = 0x00#8 := by
    have hword : t o s = 0#16 := ho s (BitVec.le_trans (by decide) hs)
    obtain ⟨hlow, hhigh⟩ := microBytes_of_ne_two (p := Config.hardware) (by bv_omega) hword f
    cases bs
    · exact hlow
    · exact hhigh
  exact ⟨fun f o => ⟨(hzero o f).1, (hzero o f).2, (hone o f).1, (hone o f).2, (hseven o f).1, (hseven o f).2⟩,
    fun f bs s hs => ⟨hlate f bs hjcNone hs, hlate f bs hjzNone hs⟩,
    (hjc 0#2).1, (hjc 0#2).2, (hjc 1#2).1, (hjc 1#2).2,
    (hjc 2#2).1, (hjc 2#2).2, (hjc 3#2).1, (hjc 3#2).2,
    (hjz 0#2).1, (hjz 0#2).2, (hjz 1#2).1, (hjz 1#2).2,
    (hjz 2#2).1, (hjz 2#2).2, (hjz 3#2).1, (hjz 3#2).2⟩

end Sys2Proof.Machine
end

section
/-! PROOFS of the exceptions family: illegal command words (O8), commands offered in flight (O10), addresses
out of range (O22), what a step adds to ERRLOG (O51), and the result word (O56). -/

namespace Sys2Proof.Machine

/-! ## An error at IDLE (R200, R201) -/

/-- At IDLE an error only adds to ERRLOG and to the results. -/
theorem raise_of_idle {s : State} (hp : s.phase = .idle) (c : ErrCode) (w : CommandWord) (i : ErrInfo) :
    raise c w i s = { s with
      errlog := s.errlog ++ [{ code := c, command := w, info := i }]
      results := s.results ++ [.err c i] } := by
  rw [raise, ← hp]

/-- A word that stands for no instruction raises IllegalCommand (R206). -/
theorem issue_of_decode_error {w : CommandWord} {e : DecodeError}
    (h : decode Config.hardware (.command w) = .error e) (s : State) :
    issue w s = .next (raise .illegalCommand w (.word w) s) := by
  simp [issue, h]

/-- Settles O8: the decoder refuses exactly these words, and issuing a refused word is the error. -/
theorem illegalCommandRaised : Obligations.IllegalCommandRaised := by
  intro s w ws hp hl hw hillegal
  obtain ⟨e, he⟩ := (decoderRefusesExactly w).mpr hillegal
  rw [step_of_command hp hl hw, issue_of_decode_error he]
  exact congrArg _ (raise_of_idle (s := { s with pending := ws }) hp _ _ _)

/-! ## What a phase does on the host's side (R31, R220, R232) -/

/-- From s to t the host's words, the latch port and ERRLOG are as they were. -/
def KeepsHost (s t : State) : Prop :=
  t.pending = s.pending ∧ t.latchPort = s.latchPort ∧ t.errlog = s.errlog

theorem sample_keepsHost (p : Params) (i : Nat) (s : State) : KeepsHost s (sample p i s).2 := by
  rw [sample_frame]
  exact ⟨rfl, rfl, rfl⟩

theorem sampleByte_keepsHost (p : Params) (s : State) : KeepsHost s (sampleByte p s).2 := by
  rw [sampleByte_frame]
  exact ⟨rfl, rfl, rfl⟩

/-- No phase but a sample of the poll loop can end in an error. -/
theorem phaseStep_keepsHost (p : Params) {s : State} (hp : s.phase ≠ .wcSample) :
    KeepsHost s (phaseStep p s) := by
  cases hph : s.phase <;> simp only [phaseStep, hph]
  case idle => exact ⟨rfl, rfl, rfl⟩
  case rdDir => simp [KeepsHost, rdDir, dirIn]
  case rdLatch => simp [KeepsHost, rdLatch, setAddress_eq]
  case rdSample => exact sampleByte_keepsHost p s
  case wrLatch => simp [KeepsHost, wrLatch, setAddress_eq]
  case wrDir => simp [KeepsHost, wrDir, dirOut]
  case wrDrive => simp [KeepsHost, wrDrive, drive]
  case wrPulse => simp [KeepsHost, wrPulse, weHigh, waitWp, weLow]
  case wcDir => simp [KeepsHost, wcDir, dirIn]
  case wcLatch => simp [KeepsHost, wcLatch, setAddress_eq]
  case wcSample => exact absurd hph hp
  case wcWait => simp [KeepsHost, wcWait, waitPoll]

/-- A sample of the poll loop leaves the host's words and the latch port, and logs nothing or the timeout
(R204). -/
theorem wcSample_host (p : Params) (s : State) :
    (wcSample p s).pending = s.pending ∧ (wcSample p s).latchPort = s.latchPort ∧
      ((wcSample p s).errlog = s.errlog ∨
        (wcSample p s).errlog = s.errlog ++
          [{ code := .writeTimeout, command := commandWord 2#4 s.opAddr s.opVal,
             info := .timeout s.opAddr s.opVal (s.polls + 1) }]) := by
  obtain ⟨hpending, hport, hlog⟩ := sample_keepsHost p 7 s
  rcases wcSample_cases p s with ⟨-, e⟩ | ⟨-, -, e⟩ | ⟨-, -, e⟩ <;> rw [e]
  · exact ⟨hpending, hport, .inl hlog⟩
  · exact ⟨by simp [hpending], by simp [hport], .inr (by simp)⟩
  · exact ⟨hpending, hport, .inl hlog⟩

/-- Every phase leaves the host's words and the latch port waiting (R220). -/
theorem phaseStep_keepsOffers (p : Params) (s : State) :
    (phaseStep p s).pending = s.pending ∧ (phaseStep p s).latchPort = s.latchPort := by
  by_cases hp : s.phase = .wcSample
  · obtain ⟨hpending, hport, -⟩ := wcSample_host p s
    exact phaseStep_of_wcSample hp ▸ ⟨hpending, hport⟩
  · obtain ⟨hpending, hport, -⟩ := phaseStep_keepsHost p hp
    exact ⟨hpending, hport⟩

/-! ## A command offered in flight (R220) -/

section
variable {s : State}

/-- In flight a step is one phase. -/
theorem step_of_in_flight (hp : s.phase ≠ .idle) : step s = .next (phaseStep Config.hardware s) := if_neg hp

/-- A host command offered in flight is refused; SET_ADDRESS is none of the host's. -/
theorem exec_of_in_flight (hp : s.phase ≠ .idle) {i : Instr} (hi : ∀ a oe, i ≠ .setAddress a oe) :
    exec i s = .refused .commandInFlight := by
  cases i with
  | read a => exact if_neg hp
  | write a v => exact if_neg hp
  | genDisplay => exact if_neg hp
  | genMicrocode => exact if_neg hp
  | setAddress a oe => exact absurd rfl (hi a oe)

end

/-- Settles O10: the phase leaves what the host offers, and exec refuses each of the four commands. -/
theorem commandInFlightRefused : Obligations.CommandInFlightRefused := by
  intro s hp
  obtain ⟨hpending, hport⟩ := phaseStep_keepsOffers Config.hardware s
  exact ⟨step_of_in_flight hp, hpending, hport, fun a => exec_of_in_flight hp nofun,
    fun a v => exec_of_in_flight hp nofun, exec_of_in_flight hp nofun, exec_of_in_flight hp nofun⟩

/-! ## The range check of READ and WRITE (R205) -/

section
variable {p : Params} {a : Address}

theorem readCommand_of_not_inRange (ha : ¬ inRange p a) (s : State) :
    readCommand p a s = raise .invalidAddress (commandWord 1#4 a 0#8) (.address a) s := if_neg ha

theorem writeCommand_of_not_inRange (ha : ¬ inRange p a) (v : Byte) (s : State) :
    writeCommand p a v s = raise .invalidAddress (commandWord 2#4 a v) (.address a) s := if_neg ha

/-- READ in range logs nothing, on any chip: its three phases end in no error (R125). -/
theorem readCommand_errlog (ha : inRange p a) (s : State) : (readCommand p a s).errlog = s.errlog := by
  obtain ⟨-, -, hlog⟩ := sampleByte_keepsHost p (rdLatch p (rdDir p (startRead a s)))
  rw [readCommand_phases p ha, rdSample, answer_errlog, hlog]
  simp [rdLatch, rdDir, dirIn, setAddress_eq]

/-- WRITE in range logs nothing or its own timeout, on any chip (R204). -/
theorem writeCommand_errlog (ha : inRange p a) (v : Byte) (s : State) :
    (writeCommand p a v s).errlog = s.errlog ∨ ∃ m, (writeCommand p a v s).errlog = s.errlog ++
      [{ code := .writeTimeout, command := commandWord 2#4 a v, info := .timeout a v m }] := by
  rcases writeCommand_ends ha v s with ⟨-, hlog, -⟩ | ⟨m, -, -, -, hlog, -⟩ | ⟨-, -, hlog, -⟩
  · exact .inl hlog
  · exact .inr ⟨m, hlog⟩
  · exact .inl hlog

end

/-- Settles O22: an address fails the range check exactly from 2048 on, and a command that passes it logs at
most a timeout. -/
theorem invalidAddressRaised : Obligations.InvalidAddressRaised := by
  intro a v s hp
  have hsize : Config.hardware.romSize = 2048 := rfl
  rw [exec_read_of_idle hp, exec_write_of_idle hp]
  refine ⟨fun hout => ?_, fun hin => ?_⟩
  · have ha : ¬ inRange Config.hardware a := by rw [inRange]; omega
    rw [readCommand_of_not_inRange ha, writeCommand_of_not_inRange ha, raise_of_idle hp, raise_of_idle hp]
    exact ⟨rfl, rfl⟩
  · have ha : inRange Config.hardware a := by rw [inRange]; omega
    refine ⟨⟨_, rfl, readCommand_errlog ha s⟩, ?_⟩
    rcases writeCommand_errlog ha v s with hlog | ⟨m, hlog⟩
    · exact ⟨_, [], rfl, by simp [hlog], by simp⟩
    · exact ⟨_, _, rfl, hlog, by simp⟩

/-! ## What a step adds to ERRLOG (R203, R207, R209) -/

/-- From s to t at most one entry was logged, and no BusFault. -/
def LogsAtMostOne (s t : State) : Prop :=
  ∃ es : List ErrEntry, t.errlog = s.errlog ++ es ∧ es.length ≤ 1 ∧ ∀ e ∈ es, e.code ≠ .busFault

section
variable {s t : State}

theorem LogsAtMostOne.of_eq (h : t.errlog = s.errlog) : LogsAtMostOne s t :=
  ⟨[], by simp [h], by simp, by simp⟩

theorem LogsAtMostOne.of_entry {e : ErrEntry} (h : t.errlog = s.errlog ++ [e]) (hc : e.code ≠ .busFault) :
    LogsAtMostOne s t :=
  ⟨[e], h, by simp, by simpa using hc⟩

theorem raise_logsAtMostOne {c : ErrCode} (hc : c ≠ .busFault) (w : CommandWord) (i : ErrInfo) (s : State) :
    LogsAtMostOne s (raise c w i s) :=
  .of_entry (raise_errlog c w i s) hc

theorem phaseStep_logsAtMostOne (p : Params) (s : State) : LogsAtMostOne s (phaseStep p s) := by
  by_cases hp : s.phase = .wcSample
  · rw [phaseStep_of_wcSample hp]
    obtain ⟨-, -, hlog | hlog⟩ := wcSample_host p s
    · exact .of_eq hlog
    · exact .of_entry hlog (by simp)
  · obtain ⟨-, -, hlog⟩ := phaseStep_keepsHost p hp
    exact .of_eq hlog

theorem readCommand_logsAtMostOne (p : Params) (a : Address) (s : State) :
    LogsAtMostOne s (readCommand p a s) := by
  by_cases ha : inRange p a
  · exact .of_eq (readCommand_errlog ha s)
  · rw [readCommand_of_not_inRange ha]
    exact raise_logsAtMostOne (by simp) _ _ s

theorem writeCommand_logsAtMostOne (p : Params) (a : Address) (v : Byte) (s : State) :
    LogsAtMostOne s (writeCommand p a v s) := by
  by_cases ha : inRange p a
  · rcases writeCommand_errlog ha v s with hlog | ⟨m, hlog⟩
    · exact .of_eq hlog
    · exact .of_entry hlog (by simp)
  · rw [writeCommand_of_not_inRange ha]
    exact raise_logsAtMostOne (by simp) _ _ s

/-- A command that answers where it is guarded answers what the guard lets through. -/
theorem next_of_guarded {P : Prop} {dec : Decidable P} {u : State} {r : Refusal}
    (h : (if P then .next u else .refused r : Host.Outcome State Fault Refusal) = .next t) : t = u := by
  split at h <;> cases h
  rfl

theorem exec_logsAtMostOne {i : Instr} (h : exec i s = .next t) : LogsAtMostOne s t := by
  cases i with
  | read a =>
    obtain rfl := next_of_guarded h
    exact readCommand_logsAtMostOne _ a s
  | write a v =>
    obtain rfl := next_of_guarded h
    exact writeCommand_logsAtMostOne _ a v s
  | genDisplay =>
    obtain rfl := next_of_guarded h
    exact .of_eq (answer_errlog _ s)
  | genMicrocode =>
    obtain rfl := next_of_guarded h
    exact .of_eq (answer_errlog _ s)
  | setAddress a oe =>
    cases h
    exact .of_eq (by simp [setAddress_eq])

theorem issue_logsAtMostOne {w : CommandWord} (h : issue w s = .next t) : LogsAtMostOne s t := by
  unfold issue at h
  split at h
  · exact exec_logsAtMostOne h
  · cases h
    exact raise_logsAtMostOne (by simp) _ _ s

theorem issueLatch_logsAtMostOne {w : LatchWord} (h : issueLatch w s = .next t) : LogsAtMostOne s t := by
  unfold issueLatch at h
  split at h
  · exact exec_logsAtMostOne h
  · cases h

/-- A step is a phase, a word from the latch port or from the host, or a wait. -/
theorem step_logsAtMostOne (h : step s = .next t) : LogsAtMostOne s t := by
  by_cases hp : s.phase = .idle
  case neg =>
    rw [step_of_in_flight hp] at h
    cases h
    exact phaseStep_logsAtMostOne _ s
  cases hl : s.latchPort with
  | some w =>
    rw [step_of_latch hp hl] at h
    exact issueLatch_logsAtMostOne (s := { s with latchPort := none }) h
  | none =>
    cases hw : s.pending with
    | nil =>
      rw [step_of_waiting hp hl hw] at h
      cases h
      exact .of_eq (chipTick_errlog _ s)
    | cons w ws =>
      rw [step_of_command hp hl hw] at h
      exact issue_logsAtMostOne (s := { s with pending := ws }) h

end

/-- Settles O51: nothing a step does logs more than one entry, and nothing raises BusFault. -/
theorem errlogOnlyGrows : Obligations.ErrlogOnlyGrows := fun _ _ => step_logsAtMostOne

/-! ## The result word (R202) -/

/-- The word of READ's byte is the byte below 24 zero bits. -/
theorem word_okByte (b : Byte) : (Result.okByte b).word = b.setWidth 32 :=
  (BitVec.setWidth_eq_append (x := b) (w := 32) (by decide)).symm

/-- Settles O56: every word but READ's is a code above 28 zero bits. -/
theorem resultWords : Obligations.ResultWords :=
  ⟨word_okByte, rfl, fun _ => rfl, fun _ => rfl, fun _ => rfl, fun _ => rfl, fun _ => rfl⟩

end Sys2Proof.Machine
end

section
/-! PROOFS of the reset and hazards family: boot from any power-on state (O46). -/

namespace Sys2Proof.Machine

/-! ## Boot (R226, R227) -/

section
variable (s : State)

@[simp] theorem bootWriteEnable_weN : (bootWriteEnable s).weN = true := rfl

@[simp] theorem bootClocks_weN : (bootClocks s).weN = s.weN := rfl

@[simp] theorem bootData_weN : (bootData s).weN = s.weN := rfl

/-- The four steps write disjoint fields, so boot is one update of the power-on state. -/
theorem boot_eq :
    boot s = { s with
      weN := true, ser := false, srclk := false, rclk := false, dir := 0x00#8, phase := .idle,
      errlog := [] } := rfl

end

/-- Settles O46: step (1) of R227 raises WE_N, and steps (2) and (3) leave it as it is. -/
theorem bootFromPowerOn : Obligations.BootFromPowerOn := fun s =>
  ⟨boot_eq s, bootWriteEnable_weN s, by simp, by simp⟩

end Sys2Proof.Machine
end
